-- ==== Sys2Proof/Word.lean ====
section
/-! DEFINITION. The word types of the machine (spec/00_scope.md R5, R6). Bit 0 is the least significant
bit of every word, and every register value is an unsigned bit vector. -/

namespace Sys2Proof

/-- One byte of the instruction memory (20_memory.md R72). -/
abbrev Byte := BitVec 8

/-- A 32-bit register or FIFO word, or one bit for each of the 32 pins (R5). -/
abbrev Word := BitVec 32

/-- A 16-bit instruction word (30_encoding.md R110). -/
abbrev InstrWord := BitVec 16

/-- A word address in the instruction memory, and a pin index: both 0 to 31 (R5). -/
abbrev Index := BitVec 5

end Sys2Proof
end

