-- ==== Sys2Proof/Syntax.lean ====
section
/-! DEFINITION. The instruction syntax: one constructor of `Instr` for each row of spec/opcode_table.json,
the 18 RESERVED rows included, and `Form`, the same instructions arranged by opcode class and operand
codes (30_encoding.md R111, R116). Every constructor carries `df`, bits 12:8 of the word, unsplit: how it
divides into delay and side-set depends on the configuration of the tick that decodes the word (R113, log 13). -/

namespace Sys2Proof

/-- JMP conditions (R117), in code order 0 to 7. -/
inductive JmpCond where
  | always | notX | xDec | notY | yDec | xNeY | pin | notOsre
  deriving DecidableEq, Repr

/-- An IRQ index that passed the check of R127: a flag number 0 to 7, or a number 0 to 3 relative to the SM. -/
inductive IrqIndex where
  | abs (flag : BitVec 3)
  | rel (offset : BitVec 2)
  deriving DecidableEq, Repr

/-- WAIT sources (R118). -/
inductive WaitSrc where
  | gpio (index : Index)
  | pin (index : Index)
  | irq (index : IrqIndex)
  deriving DecidableEq, Repr

/-- IN sources (R116, R119). -/
inductive InSrc where
  | pins | x | y | null | isr | osr
  deriving DecidableEq, Repr

/-- OUT destinations (R116, R120), in code order 0 to 7. -/
inductive OutDst where
  | pins | x | y | null | pindirs | pc | isr | exec
  deriving DecidableEq, Repr

/-- MOV destinations (R116, R123). -/
inductive MovDst where
  | pins | x | y | exec | pc | isr | osr
  deriving DecidableEq, Repr

/-- MOV operations (R123). -/
inductive MovOp where
  | none | invert | reverse
  deriving DecidableEq, Repr

/-- MOV sources (R116, R123). -/
inductive MovSrc where
  | pins | x | y | null | status | isr | osr
  deriving DecidableEq, Repr

/-- SET destinations (R116, R125). -/
inductive SetDst where
  | pins | x | y | pindirs
  deriving DecidableEq, Repr

/-- The RESERVED rows of spec/opcode_table.json, in the table's order (R128). -/
inductive ReservedRow where
  | waitSource3
  | waitIrqIndexBit3
  | waitIrqIndexBits4And2
  | inSources4And5
  | pushPullBit0
  | pushPullBit1
  | pushPullBit2
  | pushPullBit3
  | pushPullBit4
  | movDestination3
  | movOp3
  | movSource4
  | irqBit7
  | irqIndexBit3
  | irqIndexBits4And2
  | setDestination3
  | setDestination5
  | setDestinations6And7
  deriving DecidableEq, Repr

/-- An instruction without its `df` field, by opcode class and operand codes (R111, R116 to R128). -/
inductive Form where
  | jmp (cond : JmpCond) (address : Index)
  | wait (polarity : Bool) (src : WaitSrc)
  | input (src : InSrc) (bitCount : Nat)
  | output (dst : OutDst) (bitCount : Nat)
  | push (ifFull block : Bool)
  | pull (ifEmpty block : Bool)
  | mov (dst : MovDst) (op : MovOp) (src : MovSrc)
  | irqSet (index : IrqIndex)
  | irqWait (index : IrqIndex)
  | irqClear (wait : Bool) (index : IrqIndex)
  | set (dst : SetDst) (data : BitVec 5)
  | reserved (row : ReservedRow) (lsb : Byte)
  deriving DecidableEq, Repr

/-- The instructions, one constructor for each row of spec/opcode_table.json. `bitCount` is the assembled
count 1 to 32 (R126), `lsb` of a RESERVED row is bits 7:0 of the word. -/
inductive Instr where
  | jmp (df : BitVec 5) (address : Index)
  | jmpNotX (df : BitVec 5) (address : Index)
  | jmpXDec (df : BitVec 5) (address : Index)
  | jmpNotY (df : BitVec 5) (address : Index)
  | jmpYDec (df : BitVec 5) (address : Index)
  | jmpXNeY (df : BitVec 5) (address : Index)
  | jmpPin (df : BitVec 5) (address : Index)
  | jmpNotOsre (df : BitVec 5) (address : Index)
  | waitGpio (df : BitVec 5) (polarity : Bool) (index : Index)
  | waitPin (df : BitVec 5) (polarity : Bool) (index : Index)
  | waitIrq (df : BitVec 5) (polarity : Bool) (index : BitVec 3)
  | waitIrqRel (df : BitVec 5) (polarity : Bool) (index : BitVec 2)
  | inPins (df : BitVec 5) (bitCount : Nat)
  | inX (df : BitVec 5) (bitCount : Nat)
  | inY (df : BitVec 5) (bitCount : Nat)
  | inNull (df : BitVec 5) (bitCount : Nat)
  | inIsr (df : BitVec 5) (bitCount : Nat)
  | inOsr (df : BitVec 5) (bitCount : Nat)
  | outPins (df : BitVec 5) (bitCount : Nat)
  | outX (df : BitVec 5) (bitCount : Nat)
  | outY (df : BitVec 5) (bitCount : Nat)
  | outNull (df : BitVec 5) (bitCount : Nat)
  | outPindirs (df : BitVec 5) (bitCount : Nat)
  | outPc (df : BitVec 5) (bitCount : Nat)
  | outIsr (df : BitVec 5) (bitCount : Nat)
  | outExec (df : BitVec 5) (bitCount : Nat)
  | push (df : BitVec 5) (ifFull : Bool) (block : Bool)
  | pull (df : BitVec 5) (ifEmpty : Bool) (block : Bool)
  | movPinsPins (df : BitVec 5)
  | movPinsX (df : BitVec 5)
  | movPinsY (df : BitVec 5)
  | movPinsNull (df : BitVec 5)
  | movPinsStatus (df : BitVec 5)
  | movPinsIsr (df : BitVec 5)
  | movPinsOsr (df : BitVec 5)
  | movPinsInvPins (df : BitVec 5)
  | movPinsInvX (df : BitVec 5)
  | movPinsInvY (df : BitVec 5)
  | movPinsInvNull (df : BitVec 5)
  | movPinsInvStatus (df : BitVec 5)
  | movPinsInvIsr (df : BitVec 5)
  | movPinsInvOsr (df : BitVec 5)
  | movPinsRevPins (df : BitVec 5)
  | movPinsRevX (df : BitVec 5)
  | movPinsRevY (df : BitVec 5)
  | movPinsRevNull (df : BitVec 5)
  | movPinsRevStatus (df : BitVec 5)
  | movPinsRevIsr (df : BitVec 5)
  | movPinsRevOsr (df : BitVec 5)
  | movXPins (df : BitVec 5)
  | movXX (df : BitVec 5)
  | movXY (df : BitVec 5)
  | movXNull (df : BitVec 5)
  | movXStatus (df : BitVec 5)
  | movXIsr (df : BitVec 5)
  | movXOsr (df : BitVec 5)
  | movXInvPins (df : BitVec 5)
  | movXInvX (df : BitVec 5)
  | movXInvY (df : BitVec 5)
  | movXInvNull (df : BitVec 5)
  | movXInvStatus (df : BitVec 5)
  | movXInvIsr (df : BitVec 5)
  | movXInvOsr (df : BitVec 5)
  | movXRevPins (df : BitVec 5)
  | movXRevX (df : BitVec 5)
  | movXRevY (df : BitVec 5)
  | movXRevNull (df : BitVec 5)
  | movXRevStatus (df : BitVec 5)
  | movXRevIsr (df : BitVec 5)
  | movXRevOsr (df : BitVec 5)
  | movYPins (df : BitVec 5)
  | movYX (df : BitVec 5)
  | movYY (df : BitVec 5)
  | movYNull (df : BitVec 5)
  | movYStatus (df : BitVec 5)
  | movYIsr (df : BitVec 5)
  | movYOsr (df : BitVec 5)
  | movYInvPins (df : BitVec 5)
  | movYInvX (df : BitVec 5)
  | movYInvY (df : BitVec 5)
  | movYInvNull (df : BitVec 5)
  | movYInvStatus (df : BitVec 5)
  | movYInvIsr (df : BitVec 5)
  | movYInvOsr (df : BitVec 5)
  | movYRevPins (df : BitVec 5)
  | movYRevX (df : BitVec 5)
  | movYRevY (df : BitVec 5)
  | movYRevNull (df : BitVec 5)
  | movYRevStatus (df : BitVec 5)
  | movYRevIsr (df : BitVec 5)
  | movYRevOsr (df : BitVec 5)
  | movExecPins (df : BitVec 5)
  | movExecX (df : BitVec 5)
  | movExecY (df : BitVec 5)
  | movExecNull (df : BitVec 5)
  | movExecStatus (df : BitVec 5)
  | movExecIsr (df : BitVec 5)
  | movExecOsr (df : BitVec 5)
  | movExecInvPins (df : BitVec 5)
  | movExecInvX (df : BitVec 5)
  | movExecInvY (df : BitVec 5)
  | movExecInvNull (df : BitVec 5)
  | movExecInvStatus (df : BitVec 5)
  | movExecInvIsr (df : BitVec 5)
  | movExecInvOsr (df : BitVec 5)
  | movExecRevPins (df : BitVec 5)
  | movExecRevX (df : BitVec 5)
  | movExecRevY (df : BitVec 5)
  | movExecRevNull (df : BitVec 5)
  | movExecRevStatus (df : BitVec 5)
  | movExecRevIsr (df : BitVec 5)
  | movExecRevOsr (df : BitVec 5)
  | movPcPins (df : BitVec 5)
  | movPcX (df : BitVec 5)
  | movPcY (df : BitVec 5)
  | movPcNull (df : BitVec 5)
  | movPcStatus (df : BitVec 5)
  | movPcIsr (df : BitVec 5)
  | movPcOsr (df : BitVec 5)
  | movPcInvPins (df : BitVec 5)
  | movPcInvX (df : BitVec 5)
  | movPcInvY (df : BitVec 5)
  | movPcInvNull (df : BitVec 5)
  | movPcInvStatus (df : BitVec 5)
  | movPcInvIsr (df : BitVec 5)
  | movPcInvOsr (df : BitVec 5)
  | movPcRevPins (df : BitVec 5)
  | movPcRevX (df : BitVec 5)
  | movPcRevY (df : BitVec 5)
  | movPcRevNull (df : BitVec 5)
  | movPcRevStatus (df : BitVec 5)
  | movPcRevIsr (df : BitVec 5)
  | movPcRevOsr (df : BitVec 5)
  | movIsrPins (df : BitVec 5)
  | movIsrX (df : BitVec 5)
  | movIsrY (df : BitVec 5)
  | movIsrNull (df : BitVec 5)
  | movIsrStatus (df : BitVec 5)
  | movIsrIsr (df : BitVec 5)
  | movIsrOsr (df : BitVec 5)
  | movIsrInvPins (df : BitVec 5)
  | movIsrInvX (df : BitVec 5)
  | movIsrInvY (df : BitVec 5)
  | movIsrInvNull (df : BitVec 5)
  | movIsrInvStatus (df : BitVec 5)
  | movIsrInvIsr (df : BitVec 5)
  | movIsrInvOsr (df : BitVec 5)
  | movIsrRevPins (df : BitVec 5)
  | movIsrRevX (df : BitVec 5)
  | movIsrRevY (df : BitVec 5)
  | movIsrRevNull (df : BitVec 5)
  | movIsrRevStatus (df : BitVec 5)
  | movIsrRevIsr (df : BitVec 5)
  | movIsrRevOsr (df : BitVec 5)
  | movOsrPins (df : BitVec 5)
  | movOsrX (df : BitVec 5)
  | movOsrY (df : BitVec 5)
  | movOsrNull (df : BitVec 5)
  | movOsrStatus (df : BitVec 5)
  | movOsrIsr (df : BitVec 5)
  | movOsrOsr (df : BitVec 5)
  | movOsrInvPins (df : BitVec 5)
  | movOsrInvX (df : BitVec 5)
  | movOsrInvY (df : BitVec 5)
  | movOsrInvNull (df : BitVec 5)
  | movOsrInvStatus (df : BitVec 5)
  | movOsrInvIsr (df : BitVec 5)
  | movOsrInvOsr (df : BitVec 5)
  | movOsrRevPins (df : BitVec 5)
  | movOsrRevX (df : BitVec 5)
  | movOsrRevY (df : BitVec 5)
  | movOsrRevNull (df : BitVec 5)
  | movOsrRevStatus (df : BitVec 5)
  | movOsrRevIsr (df : BitVec 5)
  | movOsrRevOsr (df : BitVec 5)
  | irqSet (df : BitVec 5) (index : BitVec 3)
  | irqSetRel (df : BitVec 5) (index : BitVec 2)
  | irqWait (df : BitVec 5) (index : BitVec 3)
  | irqWaitRel (df : BitVec 5) (index : BitVec 2)
  | irqClear (df : BitVec 5) (wait : Bool) (index : BitVec 3)
  | irqClearRel (df : BitVec 5) (wait : Bool) (index : BitVec 2)
  | setPins (df : BitVec 5) (data : BitVec 5)
  | setX (df : BitVec 5) (data : BitVec 5)
  | setY (df : BitVec 5) (data : BitVec 5)
  | setPindirs (df : BitVec 5) (data : BitVec 5)
  | reservedWaitSource3 (df : BitVec 5) (lsb : Byte)
  | reservedWaitIrqIndexBit3 (df : BitVec 5) (lsb : Byte)
  | reservedWaitIrqIndexBits4And2 (df : BitVec 5) (lsb : Byte)
  | reservedInSources4And5 (df : BitVec 5) (lsb : Byte)
  | reservedPushPullBit0 (df : BitVec 5) (lsb : Byte)
  | reservedPushPullBit1 (df : BitVec 5) (lsb : Byte)
  | reservedPushPullBit2 (df : BitVec 5) (lsb : Byte)
  | reservedPushPullBit3 (df : BitVec 5) (lsb : Byte)
  | reservedPushPullBit4 (df : BitVec 5) (lsb : Byte)
  | reservedMovDestination3 (df : BitVec 5) (lsb : Byte)
  | reservedMovOp3 (df : BitVec 5) (lsb : Byte)
  | reservedMovSource4 (df : BitVec 5) (lsb : Byte)
  | reservedIrqBit7 (df : BitVec 5) (lsb : Byte)
  | reservedIrqIndexBit3 (df : BitVec 5) (lsb : Byte)
  | reservedIrqIndexBits4And2 (df : BitVec 5) (lsb : Byte)
  | reservedSetDestination3 (df : BitVec 5) (lsb : Byte)
  | reservedSetDestination5 (df : BitVec 5) (lsb : Byte)
  | reservedSetDestinations6And7 (df : BitVec 5) (lsb : Byte)
  deriving DecidableEq, Repr

/-- Bits 12:8 of the instruction. -/
def Instr.df : Instr → BitVec 5
  | .jmp df _ => df
  | .jmpNotX df _ => df
  | .jmpXDec df _ => df
  | .jmpNotY df _ => df
  | .jmpYDec df _ => df
  | .jmpXNeY df _ => df
  | .jmpPin df _ => df
  | .jmpNotOsre df _ => df
  | .waitGpio df _ _ => df
  | .waitPin df _ _ => df
  | .waitIrq df _ _ => df
  | .waitIrqRel df _ _ => df
  | .inPins df _ => df
  | .inX df _ => df
  | .inY df _ => df
  | .inNull df _ => df
  | .inIsr df _ => df
  | .inOsr df _ => df
  | .outPins df _ => df
  | .outX df _ => df
  | .outY df _ => df
  | .outNull df _ => df
  | .outPindirs df _ => df
  | .outPc df _ => df
  | .outIsr df _ => df
  | .outExec df _ => df
  | .push df _ _ => df
  | .pull df _ _ => df
  | .movPinsPins df => df
  | .movPinsX df => df
  | .movPinsY df => df
  | .movPinsNull df => df
  | .movPinsStatus df => df
  | .movPinsIsr df => df
  | .movPinsOsr df => df
  | .movPinsInvPins df => df
  | .movPinsInvX df => df
  | .movPinsInvY df => df
  | .movPinsInvNull df => df
  | .movPinsInvStatus df => df
  | .movPinsInvIsr df => df
  | .movPinsInvOsr df => df
  | .movPinsRevPins df => df
  | .movPinsRevX df => df
  | .movPinsRevY df => df
  | .movPinsRevNull df => df
  | .movPinsRevStatus df => df
  | .movPinsRevIsr df => df
  | .movPinsRevOsr df => df
  | .movXPins df => df
  | .movXX df => df
  | .movXY df => df
  | .movXNull df => df
  | .movXStatus df => df
  | .movXIsr df => df
  | .movXOsr df => df
  | .movXInvPins df => df
  | .movXInvX df => df
  | .movXInvY df => df
  | .movXInvNull df => df
  | .movXInvStatus df => df
  | .movXInvIsr df => df
  | .movXInvOsr df => df
  | .movXRevPins df => df
  | .movXRevX df => df
  | .movXRevY df => df
  | .movXRevNull df => df
  | .movXRevStatus df => df
  | .movXRevIsr df => df
  | .movXRevOsr df => df
  | .movYPins df => df
  | .movYX df => df
  | .movYY df => df
  | .movYNull df => df
  | .movYStatus df => df
  | .movYIsr df => df
  | .movYOsr df => df
  | .movYInvPins df => df
  | .movYInvX df => df
  | .movYInvY df => df
  | .movYInvNull df => df
  | .movYInvStatus df => df
  | .movYInvIsr df => df
  | .movYInvOsr df => df
  | .movYRevPins df => df
  | .movYRevX df => df
  | .movYRevY df => df
  | .movYRevNull df => df
  | .movYRevStatus df => df
  | .movYRevIsr df => df
  | .movYRevOsr df => df
  | .movExecPins df => df
  | .movExecX df => df
  | .movExecY df => df
  | .movExecNull df => df
  | .movExecStatus df => df
  | .movExecIsr df => df
  | .movExecOsr df => df
  | .movExecInvPins df => df
  | .movExecInvX df => df
  | .movExecInvY df => df
  | .movExecInvNull df => df
  | .movExecInvStatus df => df
  | .movExecInvIsr df => df
  | .movExecInvOsr df => df
  | .movExecRevPins df => df
  | .movExecRevX df => df
  | .movExecRevY df => df
  | .movExecRevNull df => df
  | .movExecRevStatus df => df
  | .movExecRevIsr df => df
  | .movExecRevOsr df => df
  | .movPcPins df => df
  | .movPcX df => df
  | .movPcY df => df
  | .movPcNull df => df
  | .movPcStatus df => df
  | .movPcIsr df => df
  | .movPcOsr df => df
  | .movPcInvPins df => df
  | .movPcInvX df => df
  | .movPcInvY df => df
  | .movPcInvNull df => df
  | .movPcInvStatus df => df
  | .movPcInvIsr df => df
  | .movPcInvOsr df => df
  | .movPcRevPins df => df
  | .movPcRevX df => df
  | .movPcRevY df => df
  | .movPcRevNull df => df
  | .movPcRevStatus df => df
  | .movPcRevIsr df => df
  | .movPcRevOsr df => df
  | .movIsrPins df => df
  | .movIsrX df => df
  | .movIsrY df => df
  | .movIsrNull df => df
  | .movIsrStatus df => df
  | .movIsrIsr df => df
  | .movIsrOsr df => df
  | .movIsrInvPins df => df
  | .movIsrInvX df => df
  | .movIsrInvY df => df
  | .movIsrInvNull df => df
  | .movIsrInvStatus df => df
  | .movIsrInvIsr df => df
  | .movIsrInvOsr df => df
  | .movIsrRevPins df => df
  | .movIsrRevX df => df
  | .movIsrRevY df => df
  | .movIsrRevNull df => df
  | .movIsrRevStatus df => df
  | .movIsrRevIsr df => df
  | .movIsrRevOsr df => df
  | .movOsrPins df => df
  | .movOsrX df => df
  | .movOsrY df => df
  | .movOsrNull df => df
  | .movOsrStatus df => df
  | .movOsrIsr df => df
  | .movOsrOsr df => df
  | .movOsrInvPins df => df
  | .movOsrInvX df => df
  | .movOsrInvY df => df
  | .movOsrInvNull df => df
  | .movOsrInvStatus df => df
  | .movOsrInvIsr df => df
  | .movOsrInvOsr df => df
  | .movOsrRevPins df => df
  | .movOsrRevX df => df
  | .movOsrRevY df => df
  | .movOsrRevNull df => df
  | .movOsrRevStatus df => df
  | .movOsrRevIsr df => df
  | .movOsrRevOsr df => df
  | .irqSet df _ => df
  | .irqSetRel df _ => df
  | .irqWait df _ => df
  | .irqWaitRel df _ => df
  | .irqClear df _ _ => df
  | .irqClearRel df _ _ => df
  | .setPins df _ => df
  | .setX df _ => df
  | .setY df _ => df
  | .setPindirs df _ => df
  | .reservedWaitSource3 df _ => df
  | .reservedWaitIrqIndexBit3 df _ => df
  | .reservedWaitIrqIndexBits4And2 df _ => df
  | .reservedInSources4And5 df _ => df
  | .reservedPushPullBit0 df _ => df
  | .reservedPushPullBit1 df _ => df
  | .reservedPushPullBit2 df _ => df
  | .reservedPushPullBit3 df _ => df
  | .reservedPushPullBit4 df _ => df
  | .reservedMovDestination3 df _ => df
  | .reservedMovOp3 df _ => df
  | .reservedMovSource4 df _ => df
  | .reservedIrqBit7 df _ => df
  | .reservedIrqIndexBit3 df _ => df
  | .reservedIrqIndexBits4And2 df _ => df
  | .reservedSetDestination3 df _ => df
  | .reservedSetDestination5 df _ => df
  | .reservedSetDestinations6And7 df _ => df

/-- Which class and operands a row's constructor stands for. -/
def Instr.form : Instr → Form
  | .jmp _ address => .jmp .always address
  | .jmpNotX _ address => .jmp .notX address
  | .jmpXDec _ address => .jmp .xDec address
  | .jmpNotY _ address => .jmp .notY address
  | .jmpYDec _ address => .jmp .yDec address
  | .jmpXNeY _ address => .jmp .xNeY address
  | .jmpPin _ address => .jmp .pin address
  | .jmpNotOsre _ address => .jmp .notOsre address
  | .waitGpio _ polarity index => .wait polarity (.gpio index)
  | .waitPin _ polarity index => .wait polarity (.pin index)
  | .waitIrq _ polarity index => .wait polarity (.irq (.abs index))
  | .waitIrqRel _ polarity index => .wait polarity (.irq (.rel index))
  | .inPins _ bitCount => .input .pins bitCount
  | .inX _ bitCount => .input .x bitCount
  | .inY _ bitCount => .input .y bitCount
  | .inNull _ bitCount => .input .null bitCount
  | .inIsr _ bitCount => .input .isr bitCount
  | .inOsr _ bitCount => .input .osr bitCount
  | .outPins _ bitCount => .output .pins bitCount
  | .outX _ bitCount => .output .x bitCount
  | .outY _ bitCount => .output .y bitCount
  | .outNull _ bitCount => .output .null bitCount
  | .outPindirs _ bitCount => .output .pindirs bitCount
  | .outPc _ bitCount => .output .pc bitCount
  | .outIsr _ bitCount => .output .isr bitCount
  | .outExec _ bitCount => .output .exec bitCount
  | .push _ ifFull block => .push ifFull block
  | .pull _ ifEmpty block => .pull ifEmpty block
  | .movPinsPins _ => .mov .pins .none .pins
  | .movPinsX _ => .mov .pins .none .x
  | .movPinsY _ => .mov .pins .none .y
  | .movPinsNull _ => .mov .pins .none .null
  | .movPinsStatus _ => .mov .pins .none .status
  | .movPinsIsr _ => .mov .pins .none .isr
  | .movPinsOsr _ => .mov .pins .none .osr
  | .movPinsInvPins _ => .mov .pins .invert .pins
  | .movPinsInvX _ => .mov .pins .invert .x
  | .movPinsInvY _ => .mov .pins .invert .y
  | .movPinsInvNull _ => .mov .pins .invert .null
  | .movPinsInvStatus _ => .mov .pins .invert .status
  | .movPinsInvIsr _ => .mov .pins .invert .isr
  | .movPinsInvOsr _ => .mov .pins .invert .osr
  | .movPinsRevPins _ => .mov .pins .reverse .pins
  | .movPinsRevX _ => .mov .pins .reverse .x
  | .movPinsRevY _ => .mov .pins .reverse .y
  | .movPinsRevNull _ => .mov .pins .reverse .null
  | .movPinsRevStatus _ => .mov .pins .reverse .status
  | .movPinsRevIsr _ => .mov .pins .reverse .isr
  | .movPinsRevOsr _ => .mov .pins .reverse .osr
  | .movXPins _ => .mov .x .none .pins
  | .movXX _ => .mov .x .none .x
  | .movXY _ => .mov .x .none .y
  | .movXNull _ => .mov .x .none .null
  | .movXStatus _ => .mov .x .none .status
  | .movXIsr _ => .mov .x .none .isr
  | .movXOsr _ => .mov .x .none .osr
  | .movXInvPins _ => .mov .x .invert .pins
  | .movXInvX _ => .mov .x .invert .x
  | .movXInvY _ => .mov .x .invert .y
  | .movXInvNull _ => .mov .x .invert .null
  | .movXInvStatus _ => .mov .x .invert .status
  | .movXInvIsr _ => .mov .x .invert .isr
  | .movXInvOsr _ => .mov .x .invert .osr
  | .movXRevPins _ => .mov .x .reverse .pins
  | .movXRevX _ => .mov .x .reverse .x
  | .movXRevY _ => .mov .x .reverse .y
  | .movXRevNull _ => .mov .x .reverse .null
  | .movXRevStatus _ => .mov .x .reverse .status
  | .movXRevIsr _ => .mov .x .reverse .isr
  | .movXRevOsr _ => .mov .x .reverse .osr
  | .movYPins _ => .mov .y .none .pins
  | .movYX _ => .mov .y .none .x
  | .movYY _ => .mov .y .none .y
  | .movYNull _ => .mov .y .none .null
  | .movYStatus _ => .mov .y .none .status
  | .movYIsr _ => .mov .y .none .isr
  | .movYOsr _ => .mov .y .none .osr
  | .movYInvPins _ => .mov .y .invert .pins
  | .movYInvX _ => .mov .y .invert .x
  | .movYInvY _ => .mov .y .invert .y
  | .movYInvNull _ => .mov .y .invert .null
  | .movYInvStatus _ => .mov .y .invert .status
  | .movYInvIsr _ => .mov .y .invert .isr
  | .movYInvOsr _ => .mov .y .invert .osr
  | .movYRevPins _ => .mov .y .reverse .pins
  | .movYRevX _ => .mov .y .reverse .x
  | .movYRevY _ => .mov .y .reverse .y
  | .movYRevNull _ => .mov .y .reverse .null
  | .movYRevStatus _ => .mov .y .reverse .status
  | .movYRevIsr _ => .mov .y .reverse .isr
  | .movYRevOsr _ => .mov .y .reverse .osr
  | .movExecPins _ => .mov .exec .none .pins
  | .movExecX _ => .mov .exec .none .x
  | .movExecY _ => .mov .exec .none .y
  | .movExecNull _ => .mov .exec .none .null
  | .movExecStatus _ => .mov .exec .none .status
  | .movExecIsr _ => .mov .exec .none .isr
  | .movExecOsr _ => .mov .exec .none .osr
  | .movExecInvPins _ => .mov .exec .invert .pins
  | .movExecInvX _ => .mov .exec .invert .x
  | .movExecInvY _ => .mov .exec .invert .y
  | .movExecInvNull _ => .mov .exec .invert .null
  | .movExecInvStatus _ => .mov .exec .invert .status
  | .movExecInvIsr _ => .mov .exec .invert .isr
  | .movExecInvOsr _ => .mov .exec .invert .osr
  | .movExecRevPins _ => .mov .exec .reverse .pins
  | .movExecRevX _ => .mov .exec .reverse .x
  | .movExecRevY _ => .mov .exec .reverse .y
  | .movExecRevNull _ => .mov .exec .reverse .null
  | .movExecRevStatus _ => .mov .exec .reverse .status
  | .movExecRevIsr _ => .mov .exec .reverse .isr
  | .movExecRevOsr _ => .mov .exec .reverse .osr
  | .movPcPins _ => .mov .pc .none .pins
  | .movPcX _ => .mov .pc .none .x
  | .movPcY _ => .mov .pc .none .y
  | .movPcNull _ => .mov .pc .none .null
  | .movPcStatus _ => .mov .pc .none .status
  | .movPcIsr _ => .mov .pc .none .isr
  | .movPcOsr _ => .mov .pc .none .osr
  | .movPcInvPins _ => .mov .pc .invert .pins
  | .movPcInvX _ => .mov .pc .invert .x
  | .movPcInvY _ => .mov .pc .invert .y
  | .movPcInvNull _ => .mov .pc .invert .null
  | .movPcInvStatus _ => .mov .pc .invert .status
  | .movPcInvIsr _ => .mov .pc .invert .isr
  | .movPcInvOsr _ => .mov .pc .invert .osr
  | .movPcRevPins _ => .mov .pc .reverse .pins
  | .movPcRevX _ => .mov .pc .reverse .x
  | .movPcRevY _ => .mov .pc .reverse .y
  | .movPcRevNull _ => .mov .pc .reverse .null
  | .movPcRevStatus _ => .mov .pc .reverse .status
  | .movPcRevIsr _ => .mov .pc .reverse .isr
  | .movPcRevOsr _ => .mov .pc .reverse .osr
  | .movIsrPins _ => .mov .isr .none .pins
  | .movIsrX _ => .mov .isr .none .x
  | .movIsrY _ => .mov .isr .none .y
  | .movIsrNull _ => .mov .isr .none .null
  | .movIsrStatus _ => .mov .isr .none .status
  | .movIsrIsr _ => .mov .isr .none .isr
  | .movIsrOsr _ => .mov .isr .none .osr
  | .movIsrInvPins _ => .mov .isr .invert .pins
  | .movIsrInvX _ => .mov .isr .invert .x
  | .movIsrInvY _ => .mov .isr .invert .y
  | .movIsrInvNull _ => .mov .isr .invert .null
  | .movIsrInvStatus _ => .mov .isr .invert .status
  | .movIsrInvIsr _ => .mov .isr .invert .isr
  | .movIsrInvOsr _ => .mov .isr .invert .osr
  | .movIsrRevPins _ => .mov .isr .reverse .pins
  | .movIsrRevX _ => .mov .isr .reverse .x
  | .movIsrRevY _ => .mov .isr .reverse .y
  | .movIsrRevNull _ => .mov .isr .reverse .null
  | .movIsrRevStatus _ => .mov .isr .reverse .status
  | .movIsrRevIsr _ => .mov .isr .reverse .isr
  | .movIsrRevOsr _ => .mov .isr .reverse .osr
  | .movOsrPins _ => .mov .osr .none .pins
  | .movOsrX _ => .mov .osr .none .x
  | .movOsrY _ => .mov .osr .none .y
  | .movOsrNull _ => .mov .osr .none .null
  | .movOsrStatus _ => .mov .osr .none .status
  | .movOsrIsr _ => .mov .osr .none .isr
  | .movOsrOsr _ => .mov .osr .none .osr
  | .movOsrInvPins _ => .mov .osr .invert .pins
  | .movOsrInvX _ => .mov .osr .invert .x
  | .movOsrInvY _ => .mov .osr .invert .y
  | .movOsrInvNull _ => .mov .osr .invert .null
  | .movOsrInvStatus _ => .mov .osr .invert .status
  | .movOsrInvIsr _ => .mov .osr .invert .isr
  | .movOsrInvOsr _ => .mov .osr .invert .osr
  | .movOsrRevPins _ => .mov .osr .reverse .pins
  | .movOsrRevX _ => .mov .osr .reverse .x
  | .movOsrRevY _ => .mov .osr .reverse .y
  | .movOsrRevNull _ => .mov .osr .reverse .null
  | .movOsrRevStatus _ => .mov .osr .reverse .status
  | .movOsrRevIsr _ => .mov .osr .reverse .isr
  | .movOsrRevOsr _ => .mov .osr .reverse .osr
  | .irqSet _ index => .irqSet (.abs index)
  | .irqSetRel _ index => .irqSet (.rel index)
  | .irqWait _ index => .irqWait (.abs index)
  | .irqWaitRel _ index => .irqWait (.rel index)
  | .irqClear _ wait index => .irqClear wait (.abs index)
  | .irqClearRel _ wait index => .irqClear wait (.rel index)
  | .setPins _ data => .set .pins data
  | .setX _ data => .set .x data
  | .setY _ data => .set .y data
  | .setPindirs _ data => .set .pindirs data
  | .reservedWaitSource3 _ lsb => .reserved .waitSource3 lsb
  | .reservedWaitIrqIndexBit3 _ lsb => .reserved .waitIrqIndexBit3 lsb
  | .reservedWaitIrqIndexBits4And2 _ lsb => .reserved .waitIrqIndexBits4And2 lsb
  | .reservedInSources4And5 _ lsb => .reserved .inSources4And5 lsb
  | .reservedPushPullBit0 _ lsb => .reserved .pushPullBit0 lsb
  | .reservedPushPullBit1 _ lsb => .reserved .pushPullBit1 lsb
  | .reservedPushPullBit2 _ lsb => .reserved .pushPullBit2 lsb
  | .reservedPushPullBit3 _ lsb => .reserved .pushPullBit3 lsb
  | .reservedPushPullBit4 _ lsb => .reserved .pushPullBit4 lsb
  | .reservedMovDestination3 _ lsb => .reserved .movDestination3 lsb
  | .reservedMovOp3 _ lsb => .reserved .movOp3 lsb
  | .reservedMovSource4 _ lsb => .reserved .movSource4 lsb
  | .reservedIrqBit7 _ lsb => .reserved .irqBit7 lsb
  | .reservedIrqIndexBit3 _ lsb => .reserved .irqIndexBit3 lsb
  | .reservedIrqIndexBits4And2 _ lsb => .reserved .irqIndexBits4And2 lsb
  | .reservedSetDestination3 _ lsb => .reserved .setDestination3 lsb
  | .reservedSetDestination5 _ lsb => .reserved .setDestination5 lsb
  | .reservedSetDestinations6And7 _ lsb => .reserved .setDestinations6And7 lsb

/-- The row's constructor for a class with its operands. -/
def Instr.ofForm (df : BitVec 5) : Form → Instr
  | .jmp .always address => .jmp df address
  | .jmp .notX address => .jmpNotX df address
  | .jmp .xDec address => .jmpXDec df address
  | .jmp .notY address => .jmpNotY df address
  | .jmp .yDec address => .jmpYDec df address
  | .jmp .xNeY address => .jmpXNeY df address
  | .jmp .pin address => .jmpPin df address
  | .jmp .notOsre address => .jmpNotOsre df address
  | .wait polarity (.gpio index) => .waitGpio df polarity index
  | .wait polarity (.pin index) => .waitPin df polarity index
  | .wait polarity (.irq (.abs index)) => .waitIrq df polarity index
  | .wait polarity (.irq (.rel index)) => .waitIrqRel df polarity index
  | .input .pins bitCount => .inPins df bitCount
  | .input .x bitCount => .inX df bitCount
  | .input .y bitCount => .inY df bitCount
  | .input .null bitCount => .inNull df bitCount
  | .input .isr bitCount => .inIsr df bitCount
  | .input .osr bitCount => .inOsr df bitCount
  | .output .pins bitCount => .outPins df bitCount
  | .output .x bitCount => .outX df bitCount
  | .output .y bitCount => .outY df bitCount
  | .output .null bitCount => .outNull df bitCount
  | .output .pindirs bitCount => .outPindirs df bitCount
  | .output .pc bitCount => .outPc df bitCount
  | .output .isr bitCount => .outIsr df bitCount
  | .output .exec bitCount => .outExec df bitCount
  | .push ifFull block => .push df ifFull block
  | .pull ifEmpty block => .pull df ifEmpty block
  | .mov .pins .none .pins => .movPinsPins df
  | .mov .pins .none .x => .movPinsX df
  | .mov .pins .none .y => .movPinsY df
  | .mov .pins .none .null => .movPinsNull df
  | .mov .pins .none .status => .movPinsStatus df
  | .mov .pins .none .isr => .movPinsIsr df
  | .mov .pins .none .osr => .movPinsOsr df
  | .mov .pins .invert .pins => .movPinsInvPins df
  | .mov .pins .invert .x => .movPinsInvX df
  | .mov .pins .invert .y => .movPinsInvY df
  | .mov .pins .invert .null => .movPinsInvNull df
  | .mov .pins .invert .status => .movPinsInvStatus df
  | .mov .pins .invert .isr => .movPinsInvIsr df
  | .mov .pins .invert .osr => .movPinsInvOsr df
  | .mov .pins .reverse .pins => .movPinsRevPins df
  | .mov .pins .reverse .x => .movPinsRevX df
  | .mov .pins .reverse .y => .movPinsRevY df
  | .mov .pins .reverse .null => .movPinsRevNull df
  | .mov .pins .reverse .status => .movPinsRevStatus df
  | .mov .pins .reverse .isr => .movPinsRevIsr df
  | .mov .pins .reverse .osr => .movPinsRevOsr df
  | .mov .x .none .pins => .movXPins df
  | .mov .x .none .x => .movXX df
  | .mov .x .none .y => .movXY df
  | .mov .x .none .null => .movXNull df
  | .mov .x .none .status => .movXStatus df
  | .mov .x .none .isr => .movXIsr df
  | .mov .x .none .osr => .movXOsr df
  | .mov .x .invert .pins => .movXInvPins df
  | .mov .x .invert .x => .movXInvX df
  | .mov .x .invert .y => .movXInvY df
  | .mov .x .invert .null => .movXInvNull df
  | .mov .x .invert .status => .movXInvStatus df
  | .mov .x .invert .isr => .movXInvIsr df
  | .mov .x .invert .osr => .movXInvOsr df
  | .mov .x .reverse .pins => .movXRevPins df
  | .mov .x .reverse .x => .movXRevX df
  | .mov .x .reverse .y => .movXRevY df
  | .mov .x .reverse .null => .movXRevNull df
  | .mov .x .reverse .status => .movXRevStatus df
  | .mov .x .reverse .isr => .movXRevIsr df
  | .mov .x .reverse .osr => .movXRevOsr df
  | .mov .y .none .pins => .movYPins df
  | .mov .y .none .x => .movYX df
  | .mov .y .none .y => .movYY df
  | .mov .y .none .null => .movYNull df
  | .mov .y .none .status => .movYStatus df
  | .mov .y .none .isr => .movYIsr df
  | .mov .y .none .osr => .movYOsr df
  | .mov .y .invert .pins => .movYInvPins df
  | .mov .y .invert .x => .movYInvX df
  | .mov .y .invert .y => .movYInvY df
  | .mov .y .invert .null => .movYInvNull df
  | .mov .y .invert .status => .movYInvStatus df
  | .mov .y .invert .isr => .movYInvIsr df
  | .mov .y .invert .osr => .movYInvOsr df
  | .mov .y .reverse .pins => .movYRevPins df
  | .mov .y .reverse .x => .movYRevX df
  | .mov .y .reverse .y => .movYRevY df
  | .mov .y .reverse .null => .movYRevNull df
  | .mov .y .reverse .status => .movYRevStatus df
  | .mov .y .reverse .isr => .movYRevIsr df
  | .mov .y .reverse .osr => .movYRevOsr df
  | .mov .exec .none .pins => .movExecPins df
  | .mov .exec .none .x => .movExecX df
  | .mov .exec .none .y => .movExecY df
  | .mov .exec .none .null => .movExecNull df
  | .mov .exec .none .status => .movExecStatus df
  | .mov .exec .none .isr => .movExecIsr df
  | .mov .exec .none .osr => .movExecOsr df
  | .mov .exec .invert .pins => .movExecInvPins df
  | .mov .exec .invert .x => .movExecInvX df
  | .mov .exec .invert .y => .movExecInvY df
  | .mov .exec .invert .null => .movExecInvNull df
  | .mov .exec .invert .status => .movExecInvStatus df
  | .mov .exec .invert .isr => .movExecInvIsr df
  | .mov .exec .invert .osr => .movExecInvOsr df
  | .mov .exec .reverse .pins => .movExecRevPins df
  | .mov .exec .reverse .x => .movExecRevX df
  | .mov .exec .reverse .y => .movExecRevY df
  | .mov .exec .reverse .null => .movExecRevNull df
  | .mov .exec .reverse .status => .movExecRevStatus df
  | .mov .exec .reverse .isr => .movExecRevIsr df
  | .mov .exec .reverse .osr => .movExecRevOsr df
  | .mov .pc .none .pins => .movPcPins df
  | .mov .pc .none .x => .movPcX df
  | .mov .pc .none .y => .movPcY df
  | .mov .pc .none .null => .movPcNull df
  | .mov .pc .none .status => .movPcStatus df
  | .mov .pc .none .isr => .movPcIsr df
  | .mov .pc .none .osr => .movPcOsr df
  | .mov .pc .invert .pins => .movPcInvPins df
  | .mov .pc .invert .x => .movPcInvX df
  | .mov .pc .invert .y => .movPcInvY df
  | .mov .pc .invert .null => .movPcInvNull df
  | .mov .pc .invert .status => .movPcInvStatus df
  | .mov .pc .invert .isr => .movPcInvIsr df
  | .mov .pc .invert .osr => .movPcInvOsr df
  | .mov .pc .reverse .pins => .movPcRevPins df
  | .mov .pc .reverse .x => .movPcRevX df
  | .mov .pc .reverse .y => .movPcRevY df
  | .mov .pc .reverse .null => .movPcRevNull df
  | .mov .pc .reverse .status => .movPcRevStatus df
  | .mov .pc .reverse .isr => .movPcRevIsr df
  | .mov .pc .reverse .osr => .movPcRevOsr df
  | .mov .isr .none .pins => .movIsrPins df
  | .mov .isr .none .x => .movIsrX df
  | .mov .isr .none .y => .movIsrY df
  | .mov .isr .none .null => .movIsrNull df
  | .mov .isr .none .status => .movIsrStatus df
  | .mov .isr .none .isr => .movIsrIsr df
  | .mov .isr .none .osr => .movIsrOsr df
  | .mov .isr .invert .pins => .movIsrInvPins df
  | .mov .isr .invert .x => .movIsrInvX df
  | .mov .isr .invert .y => .movIsrInvY df
  | .mov .isr .invert .null => .movIsrInvNull df
  | .mov .isr .invert .status => .movIsrInvStatus df
  | .mov .isr .invert .isr => .movIsrInvIsr df
  | .mov .isr .invert .osr => .movIsrInvOsr df
  | .mov .isr .reverse .pins => .movIsrRevPins df
  | .mov .isr .reverse .x => .movIsrRevX df
  | .mov .isr .reverse .y => .movIsrRevY df
  | .mov .isr .reverse .null => .movIsrRevNull df
  | .mov .isr .reverse .status => .movIsrRevStatus df
  | .mov .isr .reverse .isr => .movIsrRevIsr df
  | .mov .isr .reverse .osr => .movIsrRevOsr df
  | .mov .osr .none .pins => .movOsrPins df
  | .mov .osr .none .x => .movOsrX df
  | .mov .osr .none .y => .movOsrY df
  | .mov .osr .none .null => .movOsrNull df
  | .mov .osr .none .status => .movOsrStatus df
  | .mov .osr .none .isr => .movOsrIsr df
  | .mov .osr .none .osr => .movOsrOsr df
  | .mov .osr .invert .pins => .movOsrInvPins df
  | .mov .osr .invert .x => .movOsrInvX df
  | .mov .osr .invert .y => .movOsrInvY df
  | .mov .osr .invert .null => .movOsrInvNull df
  | .mov .osr .invert .status => .movOsrInvStatus df
  | .mov .osr .invert .isr => .movOsrInvIsr df
  | .mov .osr .invert .osr => .movOsrInvOsr df
  | .mov .osr .reverse .pins => .movOsrRevPins df
  | .mov .osr .reverse .x => .movOsrRevX df
  | .mov .osr .reverse .y => .movOsrRevY df
  | .mov .osr .reverse .null => .movOsrRevNull df
  | .mov .osr .reverse .status => .movOsrRevStatus df
  | .mov .osr .reverse .isr => .movOsrRevIsr df
  | .mov .osr .reverse .osr => .movOsrRevOsr df
  | .irqSet (.abs index) => .irqSet df index
  | .irqSet (.rel index) => .irqSetRel df index
  | .irqWait (.abs index) => .irqWait df index
  | .irqWait (.rel index) => .irqWaitRel df index
  | .irqClear wait (.abs index) => .irqClear df wait index
  | .irqClear wait (.rel index) => .irqClearRel df wait index
  | .set .pins data => .setPins df data
  | .set .x data => .setX df data
  | .set .y data => .setY df data
  | .set .pindirs data => .setPindirs df data
  | .reserved .waitSource3 lsb => .reservedWaitSource3 df lsb
  | .reserved .waitIrqIndexBit3 lsb => .reservedWaitIrqIndexBit3 df lsb
  | .reserved .waitIrqIndexBits4And2 lsb => .reservedWaitIrqIndexBits4And2 df lsb
  | .reserved .inSources4And5 lsb => .reservedInSources4And5 df lsb
  | .reserved .pushPullBit0 lsb => .reservedPushPullBit0 df lsb
  | .reserved .pushPullBit1 lsb => .reservedPushPullBit1 df lsb
  | .reserved .pushPullBit2 lsb => .reservedPushPullBit2 df lsb
  | .reserved .pushPullBit3 lsb => .reservedPushPullBit3 df lsb
  | .reserved .pushPullBit4 lsb => .reservedPushPullBit4 df lsb
  | .reserved .movDestination3 lsb => .reservedMovDestination3 df lsb
  | .reserved .movOp3 lsb => .reservedMovOp3 df lsb
  | .reserved .movSource4 lsb => .reservedMovSource4 df lsb
  | .reserved .irqBit7 lsb => .reservedIrqBit7 df lsb
  | .reserved .irqIndexBit3 lsb => .reservedIrqIndexBit3 df lsb
  | .reserved .irqIndexBits4And2 lsb => .reservedIrqIndexBits4And2 df lsb
  | .reserved .setDestination3 lsb => .reservedSetDestination3 df lsb
  | .reserved .setDestination5 lsb => .reservedSetDestination5 df lsb
  | .reserved .setDestinations6And7 lsb => .reservedSetDestinations6And7 df lsb

end Sys2Proof
end

