-- ==== Sys2Proof/WellFormed.lean ====
section
/-! DEFINITION. Which terms of the syntax stand for an instruction word: the assembled bit count of IN and OUT
is 1 to 32 (30_encoding.md R126), and the eight low bits kept by a RESERVED constructor are ones its row of
spec/opcode_table.json selects and no earlier row does (R128, R129, log 10). -/

namespace Sys2Proof

/-- The low byte of a RESERVED row's mask in spec/opcode_table.json. -/
def ReservedRow.mask : ReservedRow → Byte
  | .waitSource3 => 0x60
  | .waitIrqIndexBit3 => 0x68
  | .waitIrqIndexBits4And2 => 0x74
  | .inSources4And5 => 0xC0
  | .pushPullBit0 => 0x01
  | .pushPullBit1 => 0x02
  | .pushPullBit2 => 0x04
  | .pushPullBit3 => 0x08
  | .pushPullBit4 => 0x10
  | .movDestination3 => 0xE0
  | .movOp3 => 0x18
  | .movSource4 => 0x07
  | .irqBit7 => 0x80
  | .irqIndexBit3 => 0x08
  | .irqIndexBits4And2 => 0x14
  | .setDestination3 => 0xE0
  | .setDestination5 => 0xE0
  | .setDestinations6And7 => 0xC0

/-- The low byte of a RESERVED row's match in spec/opcode_table.json. -/
def ReservedRow.pattern : ReservedRow → Byte
  | .waitSource3 => 0x60
  | .waitIrqIndexBit3 => 0x48
  | .waitIrqIndexBits4And2 => 0x54
  | .inSources4And5 => 0x80
  | .pushPullBit0 => 0x01
  | .pushPullBit1 => 0x02
  | .pushPullBit2 => 0x04
  | .pushPullBit3 => 0x08
  | .pushPullBit4 => 0x10
  | .movDestination3 => 0x60
  | .movOp3 => 0x18
  | .movSource4 => 0x04
  | .irqBit7 => 0x80
  | .irqIndexBit3 => 0x08
  | .irqIndexBits4And2 => 0x14
  | .setDestination3 => 0x60
  | .setDestination5 => 0xA0
  | .setDestinations6And7 => 0xC0

/-- The row selects a word of its class with these low bits (R133). -/
def ReservedRow.selects (r : ReservedRow) (lsb : Byte) : Bool :=
  lsb &&& r.mask == r.pattern

/-- The rows of the same opcode class that stand before this one in the table. -/
def ReservedRow.earlier : ReservedRow → List ReservedRow
  | .waitSource3 => []
  | .waitIrqIndexBit3 => [.waitSource3]
  | .waitIrqIndexBits4And2 => [.waitSource3, .waitIrqIndexBit3]
  | .inSources4And5 => []
  | .pushPullBit0 => []
  | .pushPullBit1 => [.pushPullBit0]
  | .pushPullBit2 => [.pushPullBit0, .pushPullBit1]
  | .pushPullBit3 => [.pushPullBit0, .pushPullBit1, .pushPullBit2]
  | .pushPullBit4 => [.pushPullBit0, .pushPullBit1, .pushPullBit2, .pushPullBit3]
  | .movDestination3 => []
  | .movOp3 => [.movDestination3]
  | .movSource4 => [.movDestination3, .movOp3]
  | .irqBit7 => []
  | .irqIndexBit3 => [.irqBit7]
  | .irqIndexBits4And2 => [.irqBit7, .irqIndexBit3]
  | .setDestination3 => []
  | .setDestination5 => [.setDestination3]
  | .setDestinations6And7 => [.setDestination3, .setDestination5]

/-- The row a word reserved for several reasons is reported under: the first in the table (R129, log 10). -/
def ReservedRow.claims (r : ReservedRow) (lsb : Byte) : Bool :=
  r.selects lsb && r.earlier.all fun e => !e.selects lsb

/-- The checks on operands, by class. -/
def Form.wf : Form → Bool
  | .jmp _ _ => true
  | .wait _ _ => true
  | .input _ n => decide (1 ≤ n ∧ n ≤ 32)
  | .output _ n => decide (1 ≤ n ∧ n ≤ 32)
  | .push _ _ => true
  | .pull _ _ => true
  | .mov _ _ _ => true
  | .irqSet _ => true
  | .irqWait _ => true
  | .irqClear _ _ => true
  | .set _ _ => true
  | .reserved r lsb => r.claims lsb

/-- The term stands for an instruction word. -/
abbrev Instr.WellFormed (i : Instr) : Prop := i.form.wf = true

end Sys2Proof
end

