-- ==== Sys2Proof/Decode.lean ====
section
/-! DEFINITION. The decoder and the encoder, written from 30_encoding.md R110 to R128. Every 16-bit word
decodes: to a legal instruction, or to the RESERVED row that selects it, whose execution raises the decode
error (R128, R343). The only refusal is of a byte list too short to hold a word. -/

namespace Sys2Proof

/-- The `len` bits of the low byte of a word that begin at bit `lo`. -/
def lsbBits (lsb : Byte) (lo len : Nat) : BitVec len := lsb.extractLsb' lo len

/-- R126: the 5-bit count field, 0 standing for 32. -/
def assembleBitCount (field : BitVec 5) : Nat :=
  if field = 0 then 32 else field.toNat

/-- The inverse of R126 on 1 to 32. -/
def bitCountField (n : Nat) : BitVec 5 := BitVec.ofNat 5 n

/-- R117: the JMP condition of `lsb[7:5]`. -/
def decodeCond : BitVec 3 → JmpCond
  | 0 => .always
  | 1 => .notX
  | 2 => .xDec
  | 3 => .notY
  | 4 => .yDec
  | 5 => .xNeY
  | 6 => .pin
  | 7 => .notOsre

/-- R127: the index of WAIT IRQ and IRQ, once its check has passed. -/
def assembleIrqIndex (index : BitVec 5) : IrqIndex :=
  if index.getLsbD 4 then .rel (index.extractLsb' 0 2) else .abs (index.extractLsb' 0 3)

/-- R118, R127: WAIT. -/
def decodeWait (lsb : Byte) : Form :=
  let polarity := lsb.getLsbD 7
  let index := lsbBits lsb 0 5
  match lsbBits lsb 5 2 with
  | 0 => .wait polarity (.gpio index)
  | 1 => .wait polarity (.pin index)
  | 2 =>
    if index.getLsbD 3 then .reserved .waitIrqIndexBit3 lsb
    else if index.getLsbD 4 && index.getLsbD 2 then .reserved .waitIrqIndexBits4And2 lsb
    else .wait polarity (.irq (assembleIrqIndex index))
  | 3 => .reserved .waitSource3 lsb

/-- R116, R119: IN. -/
def decodeIn (lsb : Byte) : Form :=
  let n := assembleBitCount (lsbBits lsb 0 5)
  match lsbBits lsb 5 3 with
  | 0 => .input .pins n
  | 1 => .input .x n
  | 2 => .input .y n
  | 3 => .input .null n
  | 4 => .reserved .inSources4And5 lsb
  | 5 => .reserved .inSources4And5 lsb
  | 6 => .input .isr n
  | 7 => .input .osr n

/-- R116, R120: OUT. -/
def decodeOut (lsb : Byte) : Form :=
  let n := assembleBitCount (lsbBits lsb 0 5)
  match lsbBits lsb 5 3 with
  | 0 => .output .pins n
  | 1 => .output .x n
  | 2 => .output .y n
  | 3 => .output .null n
  | 4 => .output .pindirs n
  | 5 => .output .pc n
  | 6 => .output .isr n
  | 7 => .output .exec n

/-- R121, R122: PUSH and PULL, told apart by `lsb[7]`; any of `lsb[4:0]` set is reserved. -/
def decodePushPull (lsb : Byte) : Form :=
  if lsb.getLsbD 0 then .reserved .pushPullBit0 lsb
  else if lsb.getLsbD 1 then .reserved .pushPullBit1 lsb
  else if lsb.getLsbD 2 then .reserved .pushPullBit2 lsb
  else if lsb.getLsbD 3 then .reserved .pushPullBit3 lsb
  else if lsb.getLsbD 4 then .reserved .pushPullBit4 lsb
  else if lsb.getLsbD 7 then .pull (lsb.getLsbD 6) (lsb.getLsbD 5)
  else .push (lsb.getLsbD 6) (lsb.getLsbD 5)

/-- R116: the MOV destination codes. -/
def decodeMovDst : BitVec 3 → Option MovDst
  | 0 => some .pins
  | 1 => some .x
  | 2 => some .y
  | 3 => none
  | 4 => some .exec
  | 5 => some .pc
  | 6 => some .isr
  | 7 => some .osr

/-- R123: the MOV operation codes. -/
def decodeMovOp : BitVec 2 → Option MovOp
  | 0 => some .none
  | 1 => some .invert
  | 2 => some .reverse
  | 3 => none

/-- R116: the MOV source codes. -/
def decodeMovSrc : BitVec 3 → Option MovSrc
  | 0 => some .pins
  | 1 => some .x
  | 2 => some .y
  | 3 => some .null
  | 4 => none
  | 5 => some .status
  | 6 => some .isr
  | 7 => some .osr

/-- R123: MOV. -/
def decodeMov (lsb : Byte) : Form :=
  match decodeMovDst (lsbBits lsb 5 3), decodeMovOp (lsbBits lsb 3 2), decodeMovSrc (lsbBits lsb 0 3) with
  | some d, some o, some s => .mov d o s
  | none, _, _ => .reserved .movDestination3 lsb
  | some _, none, _ => .reserved .movOp3 lsb
  | some _, some _, none => .reserved .movSource4 lsb

/-- R124, R127: IRQ. With `clr` set the `wait` bit is kept in the syntax and ignored by the meaning. -/
def decodeIrq (lsb : Byte) : Form :=
  let index := lsbBits lsb 0 5
  if lsb.getLsbD 7 then .reserved .irqBit7 lsb
  else if index.getLsbD 3 then .reserved .irqIndexBit3 lsb
  else if index.getLsbD 4 && index.getLsbD 2 then .reserved .irqIndexBits4And2 lsb
  else if lsb.getLsbD 6 then .irqClear (lsb.getLsbD 5) (assembleIrqIndex index)
  else if lsb.getLsbD 5 then .irqWait (assembleIrqIndex index)
  else .irqSet (assembleIrqIndex index)

/-- R116, R125: SET. -/
def decodeSet (lsb : Byte) : Form :=
  let data := lsbBits lsb 0 5
  match lsbBits lsb 5 3 with
  | 0 => .set .pins data
  | 1 => .set .x data
  | 2 => .set .y data
  | 3 => .reserved .setDestination3 lsb
  | 4 => .set .pindirs data
  | 5 => .reserved .setDestination5 lsb
  | 6 => .reserved .setDestinations6And7 lsb
  | 7 => .reserved .setDestinations6And7 lsb

/-- R111: the opcode classes. -/
def decodeForm (opcode : BitVec 3) (lsb : Byte) : Form :=
  match opcode with
  | 0 => .jmp (decodeCond (lsbBits lsb 5 3)) (lsbBits lsb 0 5)
  | 1 => decodeWait lsb
  | 2 => decodeIn lsb
  | 3 => decodeOut lsb
  | 4 => decodePushPull lsb
  | 5 => decodeMov lsb
  | 6 => decodeIrq lsb
  | 7 => decodeSet lsb

/-- R110: `opcode` is bits 15:13, `df` bits 12:8, `lsb` bits 7:0. -/
def decodeWord (w : InstrWord) : Instr :=
  Instr.ofForm (w.extractLsb' 8 5) (decodeForm (w.extractLsb' 13 3) (w.extractLsb' 0 8))

/-- Why a byte list is refused. -/
inductive DecodeRefusal where
  /-- Fewer than the two bytes of a word are left. Safe: nothing is decoded. -/
  | truncated
  deriving DecidableEq, Repr

/-- R72: the byte at the lower address holds instruction bits 7 to 0. -/
def wordOfBytes (lo hi : Byte) : InstrWord := hi ++ lo

/-- The two bytes of a word, the lower address first (R72). -/
def bytesOfWord (w : InstrWord) : List Byte := [w.extractLsb' 0 8, w.extractLsb' 8 8]

/-- The decoder on bytes: one instruction and the bytes left over. -/
def decode : List Byte → Except DecodeRefusal (Instr × List Byte)
  | lo :: hi :: rest => .ok (decodeWord (wordOfBytes lo hi), rest)
  | [_] => .error .truncated
  | [] => .error .truncated

/-- A RESERVED word executes to the decode error and to nothing else (R128). -/
def Form.isReserved : Form → Bool
  | .reserved _ _ => true
  | .jmp _ _ | .wait _ _ | .input _ _ | .output _ _ | .push _ _ | .pull _ _ | .mov _ _ _
  | .irqSet _ | .irqWait _ | .irqClear _ _ | .set _ _ => false

/-- R112: whether a word is legal depends on `opcode` and `lsb` alone. -/
def legalWord (w : InstrWord) : Bool := !(decodeWord w).form.isReserved

/-! The encoder, from the same tables. -/

/-- R117. -/
def encodeCond : JmpCond → BitVec 3
  | .always => 0
  | .notX => 1
  | .xDec => 2
  | .notY => 3
  | .yDec => 4
  | .xNeY => 5
  | .pin => 6
  | .notOsre => 7

/-- R127. -/
def encodeIrqIndex : IrqIndex → BitVec 5
  | .abs flag => 0b00#2 ++ flag
  | .rel offset => 0b100#3 ++ offset

/-- R116. -/
def encodeInSrc : InSrc → BitVec 3
  | .pins => 0
  | .x => 1
  | .y => 2
  | .null => 3
  | .isr => 6
  | .osr => 7

/-- R116. -/
def encodeOutDst : OutDst → BitVec 3
  | .pins => 0
  | .x => 1
  | .y => 2
  | .null => 3
  | .pindirs => 4
  | .pc => 5
  | .isr => 6
  | .exec => 7

/-- R116. -/
def encodeMovDst : MovDst → BitVec 3
  | .pins => 0
  | .x => 1
  | .y => 2
  | .exec => 4
  | .pc => 5
  | .isr => 6
  | .osr => 7

/-- R123. -/
def encodeMovOp : MovOp → BitVec 2
  | .none => 0
  | .invert => 1
  | .reverse => 2

/-- R116. -/
def encodeMovSrc : MovSrc → BitVec 3
  | .pins => 0
  | .x => 1
  | .y => 2
  | .null => 3
  | .status => 5
  | .isr => 6
  | .osr => 7

/-- R116. -/
def encodeSetDst : SetDst → BitVec 3
  | .pins => 0
  | .x => 1
  | .y => 2
  | .pindirs => 4

/-- R118. -/
def encodeWaitSrc : WaitSrc → BitVec 7
  | .gpio index => 0b00#2 ++ index
  | .pin index => 0b01#2 ++ index
  | .irq index => 0b10#2 ++ encodeIrqIndex index

/-- The opcode class a RESERVED row belongs to (R111, R128). -/
def reservedOpcode : ReservedRow → BitVec 3
  | .waitSource3 => 1
  | .waitIrqIndexBit3 => 1
  | .waitIrqIndexBits4And2 => 1
  | .inSources4And5 => 2
  | .pushPullBit0 => 4
  | .pushPullBit1 => 4
  | .pushPullBit2 => 4
  | .pushPullBit3 => 4
  | .pushPullBit4 => 4
  | .movDestination3 => 5
  | .movOp3 => 5
  | .movSource4 => 5
  | .irqBit7 => 6
  | .irqIndexBit3 => 6
  | .irqIndexBits4And2 => 6
  | .setDestination3 => 7
  | .setDestination5 => 7
  | .setDestinations6And7 => 7

/-- R111: bits 15:13. -/
def encodeOpcode : Form → BitVec 3
  | .jmp _ _ => 0
  | .wait _ _ => 1
  | .input _ _ => 2
  | .output _ _ => 3
  | .push _ _ => 4
  | .pull _ _ => 4
  | .mov _ _ _ => 5
  | .irqSet _ => 6
  | .irqWait _ => 6
  | .irqClear _ _ => 6
  | .set _ _ => 7
  | .reserved row _ => reservedOpcode row

/-- R117 to R125: bits 7:0. -/
def encodeLsb : Form → Byte
  | .jmp cond address => encodeCond cond ++ address
  | .wait polarity src => BitVec.ofBool polarity ++ encodeWaitSrc src
  | .input src n => encodeInSrc src ++ bitCountField n
  | .output dst n => encodeOutDst dst ++ bitCountField n
  | .push ifFull block => 0b0#1 ++ BitVec.ofBool ifFull ++ BitVec.ofBool block ++ 0b00000#5
  | .pull ifEmpty block => 0b1#1 ++ BitVec.ofBool ifEmpty ++ BitVec.ofBool block ++ 0b00000#5
  | .mov dst op src => encodeMovDst dst ++ encodeMovOp op ++ encodeMovSrc src
  | .irqSet index => 0b000#3 ++ encodeIrqIndex index
  | .irqWait index => 0b001#3 ++ encodeIrqIndex index
  | .irqClear wait index => 0b01#2 ++ BitVec.ofBool wait ++ encodeIrqIndex index
  | .set dst data => encodeSetDst dst ++ data
  | .reserved _ lsb => lsb

/-- R110: the word of an instruction. -/
def encode (i : Instr) : InstrWord :=
  encodeOpcode i.form ++ i.df ++ encodeLsb i.form

/-- The host's view of the decoder: the word `w` laid out as two bytes and decoded. No row of the table has
more than 16 bits. -/
def decodeTableWord (nbits w : Nat) : Option Instr :=
  if nbits ≤ 16 then
    match decode (bytesOfWord (BitVec.ofNat 16 w)) with
    | .ok (i, _) => some i
    | .error _ => none
  else none

end Sys2Proof
end

