-- ==== Sys2Proof/Config.lean ====
section
/-! DEFINITION. The implementation parameters of spec/00_scope.md R5 that the source leaves open. The model
takes them as an argument: they are held, constant, in `State.params` (log 4), so a statement about every
state is a statement about every value of them. -/

namespace Sys2Proof

/-- `SR_COUNT_POLICY` (R5, 92_eei_decisions.md D10): what a direct write of ISR or OSR by OUT or MOV does to
the shift counter. -/
inductive SrCountPolicy where
  | keep
  | device
  deriving DecidableEq, Repr

/-- `PIN_READ` (R5, 92_eei_decisions.md D18): a pin read returns the environment's input, or the SM block's own
output latch. -/
inductive PinRead where
  | input
  | loopback
  deriving DecidableEq, Repr

/-- The open parameters of R5. -/
structure Params where
  /-- `FIFO_DEPTH`: words in each unjoined FIFO, at least 1 (D14). -/
  fifoDepth : Nat
  srCountPolicy : SrCountPolicy
  pinRead : PinRead
  /-- `SM_ORDER`: the order in which the four SMs step inside one block tick (D24). -/
  smOrder : Vector (Fin 4) 4
  deriving DecidableEq, Repr

/-- The defaults R5 shows. -/
def Params.default : Params :=
  { fifoDepth := 4, srCountPolicy := .keep, pinRead := .input, smOrder := #v[0, 1, 2, 3] }

/-- What R5 and D24 ask of the parameters: a depth of at least one word, and each SM once in the order. -/
abbrev Params.Legal (p : Params) : Prop :=
  1 ≤ p.fifoDepth ∧ p.smOrder.toList.Nodup

end Sys2Proof
end

