-- ==== Sys2Proof/Machine/State.lean ====
section
/-! DEFINITION. The state of the machine as plain data: the four state machines of a block, what they share,
the parameters, and the model's own fields that say which transition comes next (spec/10_state.md,
20_memory.md; INVENTORY.md lists every field with its rule and reset value). -/

namespace Sys2Proof.Machine

/-- The instruction memory as bytes: (byte address, byte) pairs, addresses strictly rising, none listed that
equals what an unlisted address reads as. Word `a` lies at bytes `2a` (low) and `2a + 1` (R71, R72, log 17). -/
abbrev Memory := List Host.Cell

/-- The internal invariants R344 names. -/
inductive Violation where
  /-- A second pending instruction while one is live. -/
  | secondPendingInstruction
  /-- A shift by an amount outside 1 to 32. -/
  | shiftAmount (n : Nat)
  deriving DecidableEq, Repr

/-- The numeric configuration fields that have a granular setter (49_engine.md R319). -/
inductive NumField where
  | jmpPin | wrapTop | wrapBottom | statusN | pullThresh | pushThresh
  | sidesetCount | setCount | outCount | inBase | sidesetBase | setBase | outBase
  deriving DecidableEq, Repr

/-- The true/false configuration fields that have a granular setter (R319). -/
inductive FlagField where
  | sideEn | statusSel | autopull | autopush | joinRx | joinTx
  deriving DecidableEq, Repr

/-- What an `InvalidArgument` names as the offending argument (R340, log 15). -/
inductive ArgField where
  | pc
  | num (f : NumField)
  | join
  deriving DecidableEq, Repr

/-- The three kinds of failure (60_exceptions.md R340). -/
inductive Failure where
  /-- A host setter refused; reported to the caller only (R341). -/
  | invalidArgument (field : ArgField) (value : Nat)
  /-- A reserved word reached execution; recorded in `fault` (R343). -/
  | decodeError (pc : Index) (word : InstrWord)
  /-- An implementation-bug error; reported to the caller only (R344). -/
  | internalInvariantViolation (v : Violation)
  deriving DecidableEq, Repr

/-- Why exec stops with a fault. -/
inductive Fault where
  /-- Raised by OUT EXEC and MOV EXEC when the injection slot is occupied (R229, R264) and by IN and OUT with a
  count outside 1 to 32 (R344). Safe: the spec raises the same failure, and no step can reach it. -/
  | internalInvariantViolation (v : Violation)
  /-- Raised by a fetch at a byte address outside the 64 bytes of the instruction memory. Safe: the address
  does not exist (R70), and no 5-bit PC reaches it (R71). -/
  | noSuchAddress (a : Nat)
  deriving DecidableEq, Repr

/-- Why exec refuses an instruction. -/
inductive Refusal where
  /-- Raised by an arm of exec that has no meaning yet. Safe: nothing runs. No arm uses it. -/
  | notModelled (mnemonic : String)
  deriving DecidableEq, Repr

/-- SIDE_PINDIR (R41): 0 = GPIO_LEVELS, 1 = PINDIRS. -/
inductive SideTarget where
  | gpioLevels
  | pindirs
  deriving DecidableEq, Repr

/-- IN_SHIFTDIR and OUT_SHIFTDIR (R42): 0 = LEFT, 1 = RIGHT. -/
inductive ShiftDir where
  | left
  | right
  deriving DecidableEq, Repr

/-- EXECCTRL (R41). -/
structure ExecCtrl where
  sideEn : Bool
  sidePindir : SideTarget
  jmpPin : Index
  wrapTop : Index
  wrapBottom : Index
  statusSel : Bool
  statusN : BitVec 4
  deriving DecidableEq, Repr

/-- SHIFTCTRL (R42). -/
structure ShiftCtrl where
  joinRx : Bool
  joinTx : Bool
  pullThresh : BitVec 5
  pushThresh : BitVec 5
  outShiftdir : ShiftDir
  inShiftdir : ShiftDir
  autopull : Bool
  autopush : Bool
  deriving DecidableEq, Repr

/-- PINCTRL (R43). -/
structure PinCtrl where
  sidesetCount : BitVec 3
  setCount : BitVec 3
  outCount : BitVec 6
  inBase : Index
  sidesetBase : Index
  setBase : Index
  outBase : Index
  deriving DecidableEq, Repr

/-- The private state of one SM (10_state.md R21 to R32, R40) with its two FIFOs (20_memory.md R76). -/
structure SM where
  x : Word
  y : Word
  isr : Word
  isrShiftCount : Nat
  osr : Word
  osrShiftCount : Nat
  pc : Index
  enabled : Bool
  clockEnabled : Bool
  pendingDelay : Nat
  pendingInstruction : Option InstrWord
  irqWait : Option (BitVec 3)
  fault : Option Failure
  execctrl : ExecCtrl
  shiftctrl : ShiftCtrl
  pinctrl : PinCtrl
  /-- Host to SM, head first. -/
  txFifo : List Word
  /-- SM to host, head first. -/
  rxFifo : List Word
  deriving DecidableEq, Repr

/-- What the four SMs share (R2): instruction memory, IRQ flags, pins. Bit `i` is flag or pin `i`. -/
structure Shared where
  imem : Memory
  irq : BitVec 8
  /-- The environment's pin inputs (20_memory.md R83). -/
  pinIn : Word
  /-- The output level latches (R83). -/
  pinLevel : Word
  /-- The output direction latches (R83, R87). -/
  pinDir : Word
  deriving DecidableEq, Repr

/-- The host operations on one SM (49_engine.md R310 to R320, R323). -/
inductive HostOp where
  | enable
  | disable
  | restart
  | setPC (v : Nat)
  | setX (v : Word)
  | setY (v : Word)
  | setISRValue (v : Word)
  | setOSRValue (v : Word)
  | insertInstruction (word : InstrWord)
  | getEXECCTRL
  | getSHIFTCTRL
  | getPINCTRL
  | setEXECCTRL (x : Word)
  | setSHIFTCTRL (x : Word)
  | setPINCTRL (x : Word)
  | setNum (field : NumField) (v : Nat)
  | setFlag (field : FlagField) (v : Bool)
  | setSidePindir (v : SideTarget)
  | setInShiftdir (v : ShiftDir)
  | setOutShiftdir (v : ShiftDir)
  | setCLKDIV (v : Nat)
  | hostTxWrite (w : Word)
  | hostRxRead
  deriving DecidableEq, Repr

/-- The transitions of R300: a tick of SM `n`, each host operation, and what the environment may do. -/
inductive Event where
  /-- `clockRaisingEdge()` on SM `n` (R317). -/
  | edge (n : Fin 4)
  /-- One block tick: an edge for each SM `n` with bit `n` of `edges` set, in the order `SM_ORDER` (R301). -/
  | blockTick (edges : BitVec 4)
  /-- A host operation on SM `n`. -/
  | host (n : Fin 4) (op : HostOp)
  /-- The divider of SM `n` drives its clock gate (R28, log 23). -/
  | setClockEnabled (n : Fin 4) (v : Bool)
  /-- `Memory.set` (R322). -/
  | memorySet (addr : Index) (word : InstrWord)
  /-- `dumpMemory` (R321). -/
  | dumpMemory
  /-- Host access to the IRQ bank (R324). -/
  | irqGet (i : BitVec 3)
  | irqSet (i : BitVec 3)
  | irqClear (i : BitVec 3)
  /-- The environment sets the pin inputs (R325). -/
  | setPinIn (v : Word)
  /-- The host reads the output latches (R325). -/
  | readPinLevel
  | readPinDir
  /-- A write of the latches through the GPIO collaborator from outside the block (R83, R385, log 21). -/
  | gpioSetPins (data : Word) (base : Index) (count : Nat)
  | gpioSetPinDirs (data : Word) (base : Index) (count : Nat)
  deriving DecidableEq, Repr

/-- What a host operation returned to its caller (log 14). -/
inductive Reply where
  /-- It completed and returns nothing. -/
  | done
  /-- It returns a 32-bit value. -/
  | word (w : Word)
  /-- It returns a level, true for HIGH. -/
  | level (b : Bool)
  /-- It returns the words of the instruction memory. -/
  | dump (words : List InstrWord)
  /-- It failed with a named failure and changed nothing (R340). -/
  | failed (f : Failure)
  /-- It was refused, with no named failure, and changed nothing (R323). -/
  | refused
  deriving DecidableEq, Repr

/-- The whole machine. -/
structure State where
  params : Params
  sms : Vector SM 4
  shared : Shared
  /-- The SM whose tick exec performs, and which gets the next edge when no event is listed (log 3). -/
  cur : Fin 4
  /-- The transitions still to come, in order (log 2). -/
  events : List Event
  /-- What the last host operation returned (log 14). -/
  reply : Option Reply
  deriving DecidableEq, Repr

/-- What one tick works on: the SM with its number, and what it shares (49_engine.md R290, `tick : (num, SMState,
Shared) → (SMState, Shared)`). -/
structure View where
  num : Fin 4
  params : Params
  sm : SM
  shared : Shared
  deriving DecidableEq, Repr

/-- The state of SM `n`. -/
def State.sm (s : State) (n : Fin 4) : SM := s.sms[n]

/-- The state with SM `n` replaced. -/
def State.setSm (s : State) (n : Fin 4) (m : SM) : State := { s with sms := s.sms.set n m }

/-- What a tick of the current SM works on. -/
def State.view (s : State) : View := ⟨s.cur, s.params, s.sm s.cur, s.shared⟩

/-- The state with the current SM and the shared part as a tick left them. Nothing else is written. -/
def State.putView (s : State) (v : View) : State :=
  { s.setSm s.cur v.sm with shared := v.shared }

/-- EXECCTRL after construction (R50): WRAP_TOP and WRAP_BOTTOM as the spec states; the rest DESIGN CHOICE zero,
log 6. -/
def ExecCtrl.reset : ExecCtrl :=
  { sideEn := false, sidePindir := .gpioLevels, jmpPin := 0, wrapTop := 0x1F, wrapBottom := 0,
    statusSel := false, statusN := 0 }

/-- SHIFTCTRL after construction: DESIGN CHOICE zero, log 6 (R50 leaves it unspecified). -/
def ShiftCtrl.reset : ShiftCtrl :=
  { joinRx := false, joinTx := false, pullThresh := 0, pushThresh := 0, outShiftdir := .left,
    inShiftdir := .left, autopull := false, autopush := false }

/-- PINCTRL after construction: DESIGN CHOICE zero, log 6 (R50 leaves it unspecified). -/
def PinCtrl.reset : PinCtrl :=
  { sidesetCount := 0, setCount := 0, outCount := 0, inBase := 0, sidesetBase := 0, setBase := 0,
    outBase := 0 }

/-- One SM after construction (R50). X, Y, ISR and OSR are DESIGN CHOICE zero, log 5. -/
def SM.reset : SM :=
  { x := 0, y := 0, isr := 0, isrShiftCount := 0, osr := 0, osrShiftCount := 32, pc := 0,
    enabled := false, clockEnabled := true, pendingDelay := 0, pendingInstruction := none,
    irqWait := none, fault := none, execctrl := .reset, shiftctrl := .reset, pinctrl := .reset,
    txFifo := [], rxFifo := [] }

/-- The machine after construction of the block (R50, R381). Memory lists nothing (log 7); the latches and inputs
are DESIGN CHOICE zero, log 8; `cur`, `events` and `reply` are the model's own (log 2, 3, 14). -/
def State.reset : State :=
  { params := .default
    sms := #v[.reset, .reset, .reset, .reset]
    shared := { imem := [], irq := 0, pinIn := 0, pinLevel := 0, pinDir := 0 }
    cur := 0
    events := []
    reply := none }

end Sys2Proof.Machine
end

