-- ==== Sys2Proof/Machine/Flags.lean ====
section
/-! DEFINITION. The machine has no condition-code register (10_state.md R33): every condition a program can test
is computed here from other state at the moment of the test. -/

namespace Sys2Proof.Machine

/-- R156, R157: a 5-bit threshold, 0 standing for 32. -/
def threshold (t : BitVec 5) : Nat := if t = 0 then 32 else t.toNat

/-- R156: the ISR counts as full. -/
def SM.isrFull (m : SM) : Bool := decide (threshold m.shiftctrl.pushThresh ≤ m.isrShiftCount)

/-- R157: the OSR counts as empty. -/
def SM.osrEmpty (m : SM) : Bool := decide (threshold m.shiftctrl.pullThresh ≤ m.osrShiftCount)

/-- R80: the capacity of the RX FIFO. Both join flags at once cannot be set (log 16). -/
def capRx (p : Params) (c : ShiftCtrl) : Nat :=
  match c.joinRx, c.joinTx with
  | false, false => p.fifoDepth
  | true, false => 2 * p.fifoDepth
  | false, true => 0
  | true, true => 0

/-- R80: the capacity of the TX FIFO. -/
def capTx (p : Params) (c : ShiftCtrl) : Nat :=
  match c.joinRx, c.joinTx with
  | false, false => p.fifoDepth
  | true, false => 0
  | false, true => 2 * p.fifoDepth
  | true, true => 0

/-- R77: `RX.full` is `RX.level == capRX`. -/
def rxFull (p : Params) (m : SM) : Bool := m.rxFifo.length == capRx p m.shiftctrl

/-- R167: all ones while the selected FIFO's level is below STATUS_N, else 0. -/
def SM.statusValue (m : SM) : Word :=
  let level := if m.execctrl.statusSel then m.rxFifo.length else m.txFifo.length
  if level < m.execctrl.statusN.toNat then BitVec.allOnes 32 else 0

/-- R88: `IRQ.get(i)`, true for HIGH. -/
def irqGet (irq : BitVec 8) (i : BitVec 3) : Bool := irq.getLsbD i.toNat

/-- R83, R84: the level a read of the pins returns, by the parameter `PIN_READ`. -/
def View.pinValues (v : View) : Word :=
  match v.params.pinRead with
  | .input => v.shared.pinIn
  | .loopback => v.shared.pinLevel

/-- R84: `GPIO.getBit(i)`, true for HIGH. -/
def View.getBit (v : View) (i : Index) : Bool := v.pinValues.getLsbD i.toNat

end Sys2Proof.Machine
end

