-- ==== Sys2Proof/Machine/Ops.lean ====
section
/-! DEFINITION. The named operations over memory, FIFOs, pins, IRQ flags and registers that the meanings share
(spec/20_memory.md, 40_primitives.md), and the taking of a decode error (60_exceptions.md R343). There is no
return from it (R349). -/

namespace Sys2Proof.Machine

/-! ### Instruction memory -/

/-- What a byte never loaded reads as. The spec leaves it unspecified (R50): DESIGN CHOICE zero, log 7. -/
def unlistedByte : Byte := 0

/-- The bytes of the instruction memory: 32 words of two (R71). -/
def memoryBytes : Nat := 64

/-- The canonical form: addresses strictly rising and inside the memory, no entry equal to `unlistedByte`. -/
abbrev Memory.wf (m : Memory) : Prop :=
  m.Pairwise (fun p q => p.1 < q.1) ∧ ∀ p ∈ m, p.1 < memoryBytes ∧ p.2 ≠ unlistedByte

/-- The byte at an address. -/
def readByte : Memory → Nat → Byte
  | [], _ => unlistedByte
  | (b, v) :: m, a => if b = a then v else readByte m a

/-- The memory with one byte written, in canonical form. -/
def writeByte : Memory → Nat → Byte → Memory
  | [], a, v => if v = unlistedByte then [] else [(a, v)]
  | (b, w) :: m, a, v =>
    if a < b then (if v = unlistedByte then (b, w) :: m else (a, v) :: (b, w) :: m)
    else if a = b then (if v = unlistedByte then m else (a, v) :: m)
    else (b, w) :: writeByte m a v

/-- A read of one byte, faulting outside the memory (log 22). -/
def fetchByte (m : Memory) (a : Nat) : Except Fault Byte :=
  if a < memoryBytes then .ok (readByte m a) else .error (.noSuchAddress a)

/-- `MemRead(a, 2)` of R7 and `Memory.get(a)` of R71, for a word address, little-endian (R72). -/
def memoryGet (m : Memory) (a : Nat) : Except Fault InstrWord :=
  match fetchByte m (2 * a), fetchByte m (2 * a + 1) with
  | .ok lo, .ok hi => .ok (hi ++ lo)
  | .error e, _ => .error e
  | .ok _, .error e => .error e

/-- `Memory.set(a, word)` of R322. -/
def memorySet (m : Memory) (a : Index) (w : InstrWord) : Memory :=
  writeByte (writeByte m (2 * a.toNat) (w.extractLsb' 0 8)) (2 * a.toNat + 1) (w.extractLsb' 8 8)

/-! ### Pins -/

/-- The number whose bit `k` is `f k`, for `k` below `n`. -/
def sumBits (f : Nat → Bool) : (n : Nat) → Nat
  | 0 => 0
  | n + 1 => sumBits f n + (bif f n then 2 ^ n else 0)

/-- The 32-bit value whose bit `k` is `f k`. -/
def ofBits (f : Nat → Bool) : Word := BitVec.ofNat 32 (sumBits f 32)

/-- R85: `GPIO.getPins(base, count)` over the pin levels `pins`. -/
def getPins (pins : Word) (base : Index) (count : Nat) : Word :=
  ofBits fun k => decide (k < count) && pins.getLsbD ((base.toNat + k) % 32)

/-- Which bit of a window starting at `base` pin `i` is (R85, R86). -/
def windowBit (base : Index) (i : Nat) : Nat := (i + (32 - base.toNat)) % 32

/-- R86: the latches after bit `k` of `data` went to pin `(base + k) & 31` for every `k < count`. -/
def writeWindow (latch data : Word) (base : Index) (count : Nat) : Word :=
  ofBits fun i =>
    if windowBit base i < count then data.getLsbD (windowBit base i) else latch.getLsbD i

/-- R86: `GPIO.setPins`. -/
def Shared.setPins (sh : Shared) (data : Word) (base : Index) (count : Nat) : Shared :=
  { sh with pinLevel := writeWindow sh.pinLevel data base count }

/-- R87: `GPIO.setPinDirs`. -/
def Shared.setPinDirs (sh : Shared) (data : Word) (base : Index) (count : Nat) : Shared :=
  { sh with pinDir := writeWindow sh.pinDir data base count }

/-- `GPIO.setPins` by the SM. -/
def View.setPins (v : View) (data : Word) (base : Index) (count : Nat) : View :=
  { v with shared := v.shared.setPins data base count }

/-- `GPIO.setPinDirs` by the SM. -/
def View.setPinDirs (v : View) (data : Word) (base : Index) (count : Nat) : View :=
  { v with shared := v.shared.setPinDirs data base count }

/-! ### IRQ flags -/

/-- R89: `IRQ.set(i)`. -/
def Shared.irqSet (sh : Shared) (i : BitVec 3) : Shared :=
  { sh with irq := sh.irq ||| (1#8 <<< i.toNat) }

/-- R90: `IRQ.clear(i)`. -/
def Shared.irqClear (sh : Shared) (i : BitVec 3) : Shared :=
  { sh with irq := sh.irq &&& ~~~(1#8 <<< i.toNat) }

/-- `IRQ.set(i)` by the SM. -/
def View.irqSet (v : View) (i : BitVec 3) : View := { v with shared := v.shared.irqSet i }

/-- `IRQ.clear(i)` by the SM. -/
def View.irqClear (v : View) (i : BitVec 3) : View := { v with shared := v.shared.irqClear i }

/-! ### Registers of the SM -/

/-- `x[X] <- w` (R7). -/
def View.setX (v : View) (w : Word) : View := { v with sm := { v.sm with x := w } }

/-- `x[Y] <- w` (R7). -/
def View.setY (v : View) (w : Word) : View := { v with sm := { v.sm with y := w } }

/-- `ISR <- w`, `isrShiftCount <- n`. -/
def View.setIsr (v : View) (w : Word) (n : Nat) : View :=
  { v with sm := { v.sm with isr := w, isrShiftCount := n } }

/-- `OSR <- w`, `osrShiftCount <- n`. -/
def View.setOsr (v : View) (w : Word) (n : Nat) : View :=
  { v with sm := { v.sm with osr := w, osrShiftCount := n } }

/-- `pc <- a` (R7). -/
def View.setPc (v : View) (a : Index) : View := { v with sm := { v.sm with pc := a } }

/-- `irqWait <- l` (R31). -/
def View.setIrqWait (v : View) (l : Option (BitVec 3)) : View :=
  { v with sm := { v.sm with irqWait := l } }

/-- OUT EXEC and MOV EXEC fill the injection slot (R229, R264); a live one is an invariant violation (R344). -/
def View.inject (v : View) (w : InstrWord) : Except Fault View :=
  if v.sm.pendingInstruction.isSome then .error (.internalInvariantViolation .secondPendingInstruction)
  else .ok { v with sm := { v.sm with pendingInstruction := some w } }

/-! ### Shifts -/

/-- R150: the 32-bit value with the low `n` bits set. -/
def mask (n : Nat) : Word := BitVec.ofNat 32 (2 ^ n - 1)

/-- R151: the saturating counter. -/
def addCount (count n : Nat) : Nat := min (count + n) 32

/-- R152, R153: the ISR after `n` bits of `data` entered it. -/
def shiftInto (dir : ShiftDir) (isr data : Word) (n : Nat) : Word :=
  match dir with
  | .left => (isr <<< n) ||| (data &&& mask n)
  | .right => (isr >>> n) ||| ((data &&& mask n) <<< (32 - n))

/-- R154, R155: the `n` bits that leave the OSR, as a number. -/
def shiftedOut (dir : ShiftDir) (osr : Word) (n : Nat) : Word :=
  match dir with
  | .left => (osr &&& ~~~(mask (32 - n))) >>> (32 - n)
  | .right => osr &&& mask n

/-- R154, R155: the OSR after `n` bits left it. -/
def shiftRest (dir : ShiftDir) (osr : Word) (n : Nat) : Word :=
  match dir with
  | .left => osr <<< n
  | .right => osr >>> n

/-- R150: every shift amount is 1 to 32. -/
def shiftAmountOk (n : Nat) : Bool := decide (1 ≤ n ∧ n ≤ 32)

/-- `shiftIntoISR(data, n)` (R152, R153). -/
def View.shiftIntoIsr (v : View) (data : Word) (n : Nat) : Except Fault View :=
  if shiftAmountOk n then
    .ok (v.setIsr (shiftInto v.sm.shiftctrl.inShiftdir v.sm.isr data n) (addCount v.sm.isrShiftCount n))
  else .error (.internalInvariantViolation (.shiftAmount n))

/-- `shiftOutOfOSR(n)` (R154, R155): the data and what is left. -/
def View.shiftOutOfOsr (v : View) (n : Nat) : Except Fault (Word × View) :=
  if shiftAmountOk n then
    .ok (shiftedOut v.sm.shiftctrl.outShiftdir v.sm.osr n,
      v.setOsr (shiftRest v.sm.shiftctrl.outShiftdir v.sm.osr n) (addCount v.sm.osrShiftCount n))
  else .error (.internalInvariantViolation (.shiftAmount n))

/-! ### Push and pull -/

/-- `RX.push(w)` (R77): the word goes to the tail. -/
def View.rxAppend (v : View) (w : Word) : View :=
  { v with sm := { v.sm with rxFifo := v.sm.rxFifo ++ [w] } }

/-- `rxPush(ifFull, block)` (R158): whether the caller stalls, and the state. -/
def View.rxPush (v : View) (ifFull block : Bool) : Bool × View :=
  if ifFull && !(v.sm.isrFull && v.sm.shiftctrl.autopush) then (false, v)
  else if rxFull v.params v.sm then (block, v)
  else (false, (v.rxAppend v.sm.isr).setIsr 0 0)

/-- `txPull(ifEmpty, block)` (R160, R161): whether the caller stalls, and the state. -/
def View.txPull (v : View) (ifEmpty block : Bool) : Bool × View :=
  if ifEmpty && !(v.sm.osrEmpty && v.sm.shiftctrl.autopull) then (false, v)
  else
    match v.sm.txFifo with
    | [] => (block, if block then v else v.setOsr v.sm.x 0)
    | w :: rest => (false, { v with sm := { v.sm with osr := w, osrShiftCount := 0, txFifo := rest } })

/-! ### The decode error -/

/-- R343: what a decode error of `word` does to the SM: the sticky record is set, nothing else changes. -/
def View.takeDecodeError (v : View) (word : InstrWord) : View :=
  { v with sm := { v.sm with fault := some (.decodeError v.sm.pc word) } }

end Sys2Proof.Machine
end

