-- ==== Sys2Proof/Machine/Operands.lean ====
section
/-! DEFINITION. How operands are read and results written: the split of `df` (30_encoding.md R113), the IRQ flag
number (40_primitives.md R165), the sources of IN and MOV, the destinations of OUT, MOV and SET. -/

namespace Sys2Proof.Machine

/-- R113: `delayMask(c)`, the low `5 − c` bits. -/
def delayMask (c : BitVec 3) : BitVec 5 := BitVec.ofNat 5 (2 ^ (5 - c.toNat) - 1)

/-- R113: the delay of a word under SIDESET_COUNT `c`. -/
def delayOf (c : BitVec 3) (df : BitVec 5) : Nat := (df &&& delayMask c).toNat

/-- R113: the side-set value of a word under SIDESET_COUNT `c` and SIDE_EN `e`, if one is present. -/
def sideSetOf (c : BitVec 3) (e : Bool) (df : BitVec 5) : Option (BitVec 5) :=
  if c = 0 then none
  else if !e then some (df >>> (5 - c.toNat))
  else if df.getLsbD 4 then some ((df &&& 0x0F) >>> (5 - c.toNat))
  else none

/-- R295: how many pins a side-set drives. -/
def sideCount (c : BitVec 3) (e : Bool) : Nat := c.toNat - (if e then 1 else 0)

/-- R165: the flag number of an index on SM `num`. -/
def irqNum (num : Fin 4) : IrqIndex → BitVec 3
  | .abs flag => flag
  | .rel offset => ((BitVec.ofNat 2 num.val) + offset).setWidth 3

/-- R163: the input window. -/
def View.readInputPins (v : View) : Word := getPins v.pinValues v.sm.pinctrl.inBase 32

/-- R166: bit `k` of the result is bit `31 − k` of `w`. -/
def bitReverse32 (w : Word) : Word := ofBits fun k => w.getLsbD (31 - k)

/-- R166. -/
def invert32 (w : Word) : Word := ~~~w

/-- IN sources (R212 to R217). -/
def View.inValue (v : View) : InSrc → Word
  | .pins => v.readInputPins
  | .x => v.sm.x
  | .y => v.sm.y
  | .null => 0
  | .isr => v.sm.isr
  | .osr => v.sm.osr

/-- MOV sources (R252 to R258). -/
def View.movValue (v : View) : MovSrc → Word
  | .pins => v.readInputPins
  | .x => v.sm.x
  | .y => v.sm.y
  | .null => 0
  | .status => v.sm.statusValue
  | .isr => v.sm.isr
  | .osr => v.sm.osr

/-- MOV operations (R259). -/
def movApply : MovOp → Word → Word
  | .none, w => w
  | .invert, w => invert32 w
  | .reverse, w => bitReverse32 w

/-- R164: `GPIO.setPins` on the OUT window. -/
def View.setOutPins (v : View) (data : Word) : View :=
  v.setPins data v.sm.pinctrl.outBase v.sm.pinctrl.outCount.toNat

/-- R164: `GPIO.setPinDirs` on the OUT window. -/
def View.setOutPinDirs (v : View) (data : Word) : View :=
  v.setPinDirs data v.sm.pinctrl.outBase v.sm.pinctrl.outCount.toNat

/-- R164: `GPIO.setPins` on the SET window. -/
def View.setSetPins (v : View) (data : Word) : View :=
  v.setPins data v.sm.pinctrl.setBase v.sm.pinctrl.setCount.toNat

/-- R164: `GPIO.setPinDirs` on the SET window. -/
def View.setSetPinDirs (v : View) (data : Word) : View :=
  v.setPinDirs data v.sm.pinctrl.setBase v.sm.pinctrl.setCount.toNat

/-- R227, R263: the counter after a direct write, `onDevice` under the policy `device`. -/
def countAfterWrite (p : Params) (count onDevice : Nat) : Nat :=
  match p.srCountPolicy with
  | .keep => count
  | .device => onDevice

/-- The delivery of OUT (R222 to R229). -/
def View.outDeliver (v : View) (dst : OutDst) (data : Word) (n : Nat) : Except Fault View :=
  match dst with
  | .pins => .ok (v.setOutPins data)
  | .x => .ok (v.setX data)
  | .y => .ok (v.setY data)
  | .null => .ok v
  | .pindirs => .ok (v.setOutPinDirs data)
  | .pc => .ok (v.setPc (data.extractLsb' 0 5))
  | .isr => .ok (v.setIsr data (countAfterWrite v.params v.sm.isrShiftCount n))
  | .exec => v.inject (data.extractLsb' 0 16)

end Sys2Proof.Machine
end

