-- ==== Sys2Proof/Machine/Engine.lean ====
section
/-! DEFINITION. What the engine does around an instruction (49_engine.md R292 steps 5 to 8): the clear of the
IRQ latch, the side-set, the PC update with wrap, the arming of the delay. Every legal instruction's meaning is
`retire` over its own body; every reserved word's is `decodeError`. -/

namespace Sys2Proof.Machine

/-- The three results of an execution (00_scope.md R8). -/
inductive ResultState where
  | complete
  | stall
  | jump
  deriving DecidableEq, Repr

/-- R295: `driveSideSet(v)`. -/
def View.driveSideSet (v : View) (value : BitVec 5) : View :=
  let n := sideCount v.sm.pinctrl.sidesetCount v.sm.execctrl.sideEn
  match v.sm.execctrl.sidePindir with
  | .pindirs => v.setPinDirs (value.setWidth 32) v.sm.pinctrl.sidesetBase n
  | .gpioLevels => v.setPins (value.setWidth 32) v.sm.pinctrl.sidesetBase n

/-- R292 step 6: the side-set of the word, when it has one. -/
def View.sideSet (v : View) (df : BitVec 5) : View :=
  match sideSetOf v.sm.pinctrl.sidesetCount v.sm.execctrl.sideEn df with
  | none => v
  | some value => v.driveSideSet value

/-- R296: the PC after a COMPLETE. -/
def SM.nextPc (m : SM) : Index :=
  if m.pc = m.execctrl.wrapTop then m.execctrl.wrapBottom else m.pc + 1

/-- R292 step 7. -/
def View.updatePc (v : View) (r : ResultState) : View :=
  match r with
  | .complete => v.setPc v.sm.nextPc
  | .stall => v
  | .jump => v

/-- R292 step 8. -/
def View.armDelay (v : View) (df : BitVec 5) (r : ResultState) : View :=
  match r with
  | .stall => v
  | .complete | .jump =>
    { v with sm := { v.sm with pendingDelay := delayOf v.sm.pinctrl.sidesetCount df } }

/-- R292 steps 6 to 8. -/
def View.finish (v : View) (df : BitVec 5) (r : ResultState) : View :=
  ((v.sideSet df).updatePc r).armDelay df r

/-- The body of an instruction (41_jmp.md to 48_set.md): what it does and its result. -/
abbrev Body := View → Except Fault (View × ResultState)

/-- R292 steps 6 to 8 after a body, on the whole machine. -/
def settle (df : BitVec 5) (s : State) (o : Except Fault (View × ResultState)) :
    Host.Outcome State Fault Refusal :=
  match o with
  | .error e => .fault e
  | .ok (v, r) => .next (s.putView (v.finish df r))

/-- R292 steps 5 to 8 for an instruction other than IRQ with `clr = 0` and `wait = 1`. -/
def retire (df : BitVec 5) (body : Body) (s : State) : Host.Outcome State Fault Refusal :=
  settle df s (body (s.view.setIrqWait none))

/-- R292 steps 5 to 8 for IRQ with `clr = 0` and `wait = 1`, which keeps the latch (R31). -/
def retireKeepingLatch (df : BitVec 5) (body : Body) (s : State) : Host.Outcome State Fault Refusal :=
  settle df s (body s.view)

/-- R292 step 4 on a reserved word: the decode error is taken; no side-set, no PC update, no delay (R343). -/
def decodeError (word : InstrWord) (s : State) : Host.Outcome State Fault Refusal :=
  .next (s.putView (s.view.takeDecodeError word))

end Sys2Proof.Machine
end

