-- ==== Sys2Proof/Machine/In.lean ====
section
/-! DEFINITION. IN (spec/43_in.md). -/

namespace Sys2Proof.Machine

/-- R211: shift the source into the ISR, then autopush; STALL when the push must wait. The shift stands even
then, and is done again at each re-run (R219). -/
def shiftIn (src : InSrc) (n : Nat) (v : View) : Except Fault (View × ResultState) :=
  match v.shiftIntoIsr (v.inValue src) n with
  | .error e => .error e
  | .ok v1 =>
    let p := v1.rxPush true true
    .ok (p.2, if p.1 then .stall else .complete)

/-- `IN PINS` (R212). -/
def execInPins (df : BitVec 5) (bitCount : Nat) (s : State) : Host.Outcome State Fault Refusal :=
  retire df (shiftIn .pins bitCount) s

/-- `IN X` (R213). -/
def execInX (df : BitVec 5) (bitCount : Nat) (s : State) : Host.Outcome State Fault Refusal :=
  retire df (shiftIn .x bitCount) s

/-- `IN Y` (R214). -/
def execInY (df : BitVec 5) (bitCount : Nat) (s : State) : Host.Outcome State Fault Refusal :=
  retire df (shiftIn .y bitCount) s

/-- `IN NULL` (R215). -/
def execInNull (df : BitVec 5) (bitCount : Nat) (s : State) : Host.Outcome State Fault Refusal :=
  retire df (shiftIn .null bitCount) s

/-- `IN ISR` (R216). -/
def execInIsr (df : BitVec 5) (bitCount : Nat) (s : State) : Host.Outcome State Fault Refusal :=
  retire df (shiftIn .isr bitCount) s

/-- `IN OSR` (R217). -/
def execInOsr (df : BitVec 5) (bitCount : Nat) (s : State) : Host.Outcome State Fault Refusal :=
  retire df (shiftIn .osr bitCount) s

end Sys2Proof.Machine
end

