-- ==== Sys2Proof/Machine/Irq.lean ====
section
/-! DEFINITION. IRQ (spec/47_irq.md). -/

namespace Sys2Proof.Machine

/-- R271: set the flag. -/
def setFlag (index : IrqIndex) (v : View) : Except Fault (View × ResultState) :=
  .ok (v.irqSet (irqNum v.num index), .complete)

/-- R272: clear the flag; the `wait` bit is ignored. -/
def clearFlag (_wait : Bool) (index : IrqIndex) (v : View) : Except Fault (View × ResultState) :=
  .ok (v.irqClear (irqNum v.num index), .complete)

/-- R273: set the flag once, then stall while it is HIGH; the latch says the set has been done. -/
def setAndWait (index : IrqIndex) (v : View) : Except Fault (View × ResultState) :=
  let n := irqNum v.num index
  let v1 := if v.sm.irqWait = some n then v else (v.irqSet n).setIrqWait (some n)
  .ok (if irqGet v1.shared.irq n then (v1, .stall) else (v1.setIrqWait none, .complete))

/-- `IRQ SET` (R271). -/
def execIrqSet (df : BitVec 5) (index : BitVec 3) (s : State) : Host.Outcome State Fault Refusal :=
  retire df (setFlag (.abs index)) s

/-- `IRQ SET REL` (R271). -/
def execIrqSetRel (df : BitVec 5) (index : BitVec 2) (s : State) : Host.Outcome State Fault Refusal :=
  retire df (setFlag (.rel index)) s

/-- `IRQ WAIT` (R273). -/
def execIrqWait (df : BitVec 5) (index : BitVec 3) (s : State) : Host.Outcome State Fault Refusal :=
  retireKeepingLatch df (setAndWait (.abs index)) s

/-- `IRQ WAIT REL` (R273). -/
def execIrqWaitRel (df : BitVec 5) (index : BitVec 2) (s : State) : Host.Outcome State Fault Refusal :=
  retireKeepingLatch df (setAndWait (.rel index)) s

/-- `IRQ CLEAR` (R272). -/
def execIrqClear (df : BitVec 5) (wait : Bool) (index : BitVec 3) (s : State) : Host.Outcome State Fault Refusal :=
  retire df (clearFlag wait (.abs index)) s

/-- `IRQ CLEAR REL` (R272). -/
def execIrqClearRel (df : BitVec 5) (wait : Bool) (index : BitVec 2) (s : State) : Host.Outcome State Fault Refusal :=
  retire df (clearFlag wait (.rel index)) s

end Sys2Proof.Machine
end

