-- ==== Sys2Proof/Machine/Jmp.lean ====
section
/-! DEFINITION. JMP (spec/41_jmp.md). -/

namespace Sys2Proof.Machine

/-- R180: a taken jump writes PC and answers JUMP, one not taken COMPLETE. -/
def jumpIf (taken : Bool) (address : Index) (v : View) : Except Fault (View × ResultState) :=
  .ok (if taken then (v.setPc address, .jump) else (v, .complete))

/-- `JMP <address>` (R181). -/
def execJmp (df : BitVec 5) (address : Index) (s : State) : Host.Outcome State Fault Refusal :=
  retire df (fun v => jumpIf true address v) s

/-- `JMP !X` (R182): X is zero. -/
def execJmpNotX (df : BitVec 5) (address : Index) (s : State) : Host.Outcome State Fault Refusal :=
  retire df (fun v => jumpIf (v.sm.x == 0) address v) s

/-- `JMP X--` (R183): taken on the value before the decrement, which always happens. -/
def execJmpXDec (df : BitVec 5) (address : Index) (s : State) : Host.Outcome State Fault Refusal :=
  retire df (fun v => jumpIf (v.sm.x != 0) address (v.setX (v.sm.x - 1))) s

/-- `JMP !Y` (R184): Y is zero. -/
def execJmpNotY (df : BitVec 5) (address : Index) (s : State) : Host.Outcome State Fault Refusal :=
  retire df (fun v => jumpIf (v.sm.y == 0) address v) s

/-- `JMP Y--` (R185), as `JMP X--`. -/
def execJmpYDec (df : BitVec 5) (address : Index) (s : State) : Host.Outcome State Fault Refusal :=
  retire df (fun v => jumpIf (v.sm.y != 0) address (v.setY (v.sm.y - 1))) s

/-- `JMP X!=Y` (R186). -/
def execJmpXNeY (df : BitVec 5) (address : Index) (s : State) : Host.Outcome State Fault Refusal :=
  retire df (fun v => jumpIf (v.sm.x != v.sm.y) address v) s

/-- `JMP PIN` (R187): pin JMP_PIN is HIGH. -/
def execJmpPin (df : BitVec 5) (address : Index) (s : State) : Host.Outcome State Fault Refusal :=
  retire df (fun v => jumpIf (v.getBit v.sm.execctrl.jmpPin) address v) s

/-- `JMP !OSRE` (R188): the OSR does not count as empty. -/
def execJmpNotOsre (df : BitVec 5) (address : Index) (s : State) : Host.Outcome State Fault Refusal :=
  retire df (fun v => jumpIf (!v.sm.osrEmpty) address v) s

end Sys2Proof.Machine
end

