-- ==== Sys2Proof/Machine/Mov.lean ====
section
/-! DEFINITION. MOV (spec/46_mov.md): one source rule, one op rule and one destination rule put together by R251. -/

namespace Sys2Proof.Machine

/-- R260 to R264: the write of a MOV and its result. -/
def movWrite (dst : MovDst) (w : Word) (v : View) : Except Fault (View × ResultState) :=
  match dst with
  | .pins => .ok (v.setOutPins w, .complete)
  | .x => .ok (v.setX w, .complete)
  | .y => .ok (v.setY w, .complete)
  | .exec =>
    match v.inject (w.extractLsb' 0 16) with
    | .error e => .error e
    | .ok v1 => .ok (v1, .stall)
  | .pc => .ok (v.setPc (w.extractLsb' 0 5), .jump)
  | .isr => .ok (v.setIsr w (countAfterWrite v.params v.sm.isrShiftCount 0), .complete)
  | .osr => .ok (v.setOsr w (countAfterWrite v.params v.sm.osrShiftCount 0), .complete)

/-- R251: read the source in full, apply the operation, write the destination. -/
def move (dst : MovDst) (op : MovOp) (src : MovSrc) (v : View) : Except Fault (View × ResultState) :=
  movWrite dst (movApply op (v.movValue src)) v

/-- `MOV PINS, PINS` (R252, R260). -/
def execMovPinsPins (df : BitVec 5) (s : State) : Host.Outcome State Fault Refusal :=
  retire df (move .pins .none .pins) s

/-- `MOV PINS, X` (R253, R260). -/
def execMovPinsX (df : BitVec 5) (s : State) : Host.Outcome State Fault Refusal :=
  retire df (move .pins .none .x) s

/-- `MOV PINS, Y` (R254, R260). -/
def execMovPinsY (df : BitVec 5) (s : State) : Host.Outcome State Fault Refusal :=
  retire df (move .pins .none .y) s

/-- `MOV PINS, NULL` (R255, R260). -/
def execMovPinsNull (df : BitVec 5) (s : State) : Host.Outcome State Fault Refusal :=
  retire df (move .pins .none .null) s

/-- `MOV PINS, STATUS` (R256, R260). -/
def execMovPinsStatus (df : BitVec 5) (s : State) : Host.Outcome State Fault Refusal :=
  retire df (move .pins .none .status) s

/-- `MOV PINS, ISR` (R257, R260). -/
def execMovPinsIsr (df : BitVec 5) (s : State) : Host.Outcome State Fault Refusal :=
  retire df (move .pins .none .isr) s

/-- `MOV PINS, OSR` (R258, R260). -/
def execMovPinsOsr (df : BitVec 5) (s : State) : Host.Outcome State Fault Refusal :=
  retire df (move .pins .none .osr) s

/-- `MOV PINS, ~PINS` (R252, R259, R260). -/
def execMovPinsInvPins (df : BitVec 5) (s : State) : Host.Outcome State Fault Refusal :=
  retire df (move .pins .invert .pins) s

/-- `MOV PINS, ~X` (R253, R259, R260). -/
def execMovPinsInvX (df : BitVec 5) (s : State) : Host.Outcome State Fault Refusal :=
  retire df (move .pins .invert .x) s

/-- `MOV PINS, ~Y` (R254, R259, R260). -/
def execMovPinsInvY (df : BitVec 5) (s : State) : Host.Outcome State Fault Refusal :=
  retire df (move .pins .invert .y) s

/-- `MOV PINS, ~NULL` (R255, R259, R260). -/
def execMovPinsInvNull (df : BitVec 5) (s : State) : Host.Outcome State Fault Refusal :=
  retire df (move .pins .invert .null) s

/-- `MOV PINS, ~STATUS` (R256, R259, R260). -/
def execMovPinsInvStatus (df : BitVec 5) (s : State) : Host.Outcome State Fault Refusal :=
  retire df (move .pins .invert .status) s

/-- `MOV PINS, ~ISR` (R257, R259, R260). -/
def execMovPinsInvIsr (df : BitVec 5) (s : State) : Host.Outcome State Fault Refusal :=
  retire df (move .pins .invert .isr) s

/-- `MOV PINS, ~OSR` (R258, R259, R260). -/
def execMovPinsInvOsr (df : BitVec 5) (s : State) : Host.Outcome State Fault Refusal :=
  retire df (move .pins .invert .osr) s

/-- `MOV PINS, ::PINS` (R252, R259, R260). -/
def execMovPinsRevPins (df : BitVec 5) (s : State) : Host.Outcome State Fault Refusal :=
  retire df (move .pins .reverse .pins) s

/-- `MOV PINS, ::X` (R253, R259, R260). -/
def execMovPinsRevX (df : BitVec 5) (s : State) : Host.Outcome State Fault Refusal :=
  retire df (move .pins .reverse .x) s

/-- `MOV PINS, ::Y` (R254, R259, R260). -/
def execMovPinsRevY (df : BitVec 5) (s : State) : Host.Outcome State Fault Refusal :=
  retire df (move .pins .reverse .y) s

/-- `MOV PINS, ::NULL` (R255, R259, R260). -/
def execMovPinsRevNull (df : BitVec 5) (s : State) : Host.Outcome State Fault Refusal :=
  retire df (move .pins .reverse .null) s

/-- `MOV PINS, ::STATUS` (R256, R259, R260). -/
def execMovPinsRevStatus (df : BitVec 5) (s : State) : Host.Outcome State Fault Refusal :=
  retire df (move .pins .reverse .status) s

/-- `MOV PINS, ::ISR` (R257, R259, R260). -/
def execMovPinsRevIsr (df : BitVec 5) (s : State) : Host.Outcome State Fault Refusal :=
  retire df (move .pins .reverse .isr) s

/-- `MOV PINS, ::OSR` (R258, R259, R260). -/
def execMovPinsRevOsr (df : BitVec 5) (s : State) : Host.Outcome State Fault Refusal :=
  retire df (move .pins .reverse .osr) s

/-- `MOV X, PINS` (R252, R261). -/
def execMovXPins (df : BitVec 5) (s : State) : Host.Outcome State Fault Refusal :=
  retire df (move .x .none .pins) s

/-- `MOV X, X` (R253, R261). -/
def execMovXX (df : BitVec 5) (s : State) : Host.Outcome State Fault Refusal :=
  retire df (move .x .none .x) s

/-- `MOV X, Y` (R254, R261). -/
def execMovXY (df : BitVec 5) (s : State) : Host.Outcome State Fault Refusal :=
  retire df (move .x .none .y) s

/-- `MOV X, NULL` (R255, R261). -/
def execMovXNull (df : BitVec 5) (s : State) : Host.Outcome State Fault Refusal :=
  retire df (move .x .none .null) s

/-- `MOV X, STATUS` (R256, R261). -/
def execMovXStatus (df : BitVec 5) (s : State) : Host.Outcome State Fault Refusal :=
  retire df (move .x .none .status) s

/-- `MOV X, ISR` (R257, R261). -/
def execMovXIsr (df : BitVec 5) (s : State) : Host.Outcome State Fault Refusal :=
  retire df (move .x .none .isr) s

/-- `MOV X, OSR` (R258, R261). -/
def execMovXOsr (df : BitVec 5) (s : State) : Host.Outcome State Fault Refusal :=
  retire df (move .x .none .osr) s

/-- `MOV X, ~PINS` (R252, R259, R261). -/
def execMovXInvPins (df : BitVec 5) (s : State) : Host.Outcome State Fault Refusal :=
  retire df (move .x .invert .pins) s

/-- `MOV X, ~X` (R253, R259, R261). -/
def execMovXInvX (df : BitVec 5) (s : State) : Host.Outcome State Fault Refusal :=
  retire df (move .x .invert .x) s

/-- `MOV X, ~Y` (R254, R259, R261). -/
def execMovXInvY (df : BitVec 5) (s : State) : Host.Outcome State Fault Refusal :=
  retire df (move .x .invert .y) s

/-- `MOV X, ~NULL` (R255, R259, R261). -/
def execMovXInvNull (df : BitVec 5) (s : State) : Host.Outcome State Fault Refusal :=
  retire df (move .x .invert .null) s

/-- `MOV X, ~STATUS` (R256, R259, R261). -/
def execMovXInvStatus (df : BitVec 5) (s : State) : Host.Outcome State Fault Refusal :=
  retire df (move .x .invert .status) s

/-- `MOV X, ~ISR` (R257, R259, R261). -/
def execMovXInvIsr (df : BitVec 5) (s : State) : Host.Outcome State Fault Refusal :=
  retire df (move .x .invert .isr) s

/-- `MOV X, ~OSR` (R258, R259, R261). -/
def execMovXInvOsr (df : BitVec 5) (s : State) : Host.Outcome State Fault Refusal :=
  retire df (move .x .invert .osr) s

/-- `MOV X, ::PINS` (R252, R259, R261). -/
def execMovXRevPins (df : BitVec 5) (s : State) : Host.Outcome State Fault Refusal :=
  retire df (move .x .reverse .pins) s

/-- `MOV X, ::X` (R253, R259, R261). -/
def execMovXRevX (df : BitVec 5) (s : State) : Host.Outcome State Fault Refusal :=
  retire df (move .x .reverse .x) s

/-- `MOV X, ::Y` (R254, R259, R261). -/
def execMovXRevY (df : BitVec 5) (s : State) : Host.Outcome State Fault Refusal :=
  retire df (move .x .reverse .y) s

/-- `MOV X, ::NULL` (R255, R259, R261). -/
def execMovXRevNull (df : BitVec 5) (s : State) : Host.Outcome State Fault Refusal :=
  retire df (move .x .reverse .null) s

/-- `MOV X, ::STATUS` (R256, R259, R261). -/
def execMovXRevStatus (df : BitVec 5) (s : State) : Host.Outcome State Fault Refusal :=
  retire df (move .x .reverse .status) s

/-- `MOV X, ::ISR` (R257, R259, R261). -/
def execMovXRevIsr (df : BitVec 5) (s : State) : Host.Outcome State Fault Refusal :=
  retire df (move .x .reverse .isr) s

/-- `MOV X, ::OSR` (R258, R259, R261). -/
def execMovXRevOsr (df : BitVec 5) (s : State) : Host.Outcome State Fault Refusal :=
  retire df (move .x .reverse .osr) s

/-- `MOV Y, PINS` (R252, R261). -/
def execMovYPins (df : BitVec 5) (s : State) : Host.Outcome State Fault Refusal :=
  retire df (move .y .none .pins) s

/-- `MOV Y, X` (R253, R261). -/
def execMovYX (df : BitVec 5) (s : State) : Host.Outcome State Fault Refusal :=
  retire df (move .y .none .x) s

/-- `MOV Y, Y` (R254, R261). -/
def execMovYY (df : BitVec 5) (s : State) : Host.Outcome State Fault Refusal :=
  retire df (move .y .none .y) s

/-- `MOV Y, NULL` (R255, R261). -/
def execMovYNull (df : BitVec 5) (s : State) : Host.Outcome State Fault Refusal :=
  retire df (move .y .none .null) s

/-- `MOV Y, STATUS` (R256, R261). -/
def execMovYStatus (df : BitVec 5) (s : State) : Host.Outcome State Fault Refusal :=
  retire df (move .y .none .status) s

/-- `MOV Y, ISR` (R257, R261). -/
def execMovYIsr (df : BitVec 5) (s : State) : Host.Outcome State Fault Refusal :=
  retire df (move .y .none .isr) s

/-- `MOV Y, OSR` (R258, R261). -/
def execMovYOsr (df : BitVec 5) (s : State) : Host.Outcome State Fault Refusal :=
  retire df (move .y .none .osr) s

/-- `MOV Y, ~PINS` (R252, R259, R261). -/
def execMovYInvPins (df : BitVec 5) (s : State) : Host.Outcome State Fault Refusal :=
  retire df (move .y .invert .pins) s

/-- `MOV Y, ~X` (R253, R259, R261). -/
def execMovYInvX (df : BitVec 5) (s : State) : Host.Outcome State Fault Refusal :=
  retire df (move .y .invert .x) s

/-- `MOV Y, ~Y` (R254, R259, R261). -/
def execMovYInvY (df : BitVec 5) (s : State) : Host.Outcome State Fault Refusal :=
  retire df (move .y .invert .y) s

/-- `MOV Y, ~NULL` (R255, R259, R261). -/
def execMovYInvNull (df : BitVec 5) (s : State) : Host.Outcome State Fault Refusal :=
  retire df (move .y .invert .null) s

/-- `MOV Y, ~STATUS` (R256, R259, R261). -/
def execMovYInvStatus (df : BitVec 5) (s : State) : Host.Outcome State Fault Refusal :=
  retire df (move .y .invert .status) s

/-- `MOV Y, ~ISR` (R257, R259, R261). -/
def execMovYInvIsr (df : BitVec 5) (s : State) : Host.Outcome State Fault Refusal :=
  retire df (move .y .invert .isr) s

/-- `MOV Y, ~OSR` (R258, R259, R261). -/
def execMovYInvOsr (df : BitVec 5) (s : State) : Host.Outcome State Fault Refusal :=
  retire df (move .y .invert .osr) s

/-- `MOV Y, ::PINS` (R252, R259, R261). -/
def execMovYRevPins (df : BitVec 5) (s : State) : Host.Outcome State Fault Refusal :=
  retire df (move .y .reverse .pins) s

/-- `MOV Y, ::X` (R253, R259, R261). -/
def execMovYRevX (df : BitVec 5) (s : State) : Host.Outcome State Fault Refusal :=
  retire df (move .y .reverse .x) s

/-- `MOV Y, ::Y` (R254, R259, R261). -/
def execMovYRevY (df : BitVec 5) (s : State) : Host.Outcome State Fault Refusal :=
  retire df (move .y .reverse .y) s

/-- `MOV Y, ::NULL` (R255, R259, R261). -/
def execMovYRevNull (df : BitVec 5) (s : State) : Host.Outcome State Fault Refusal :=
  retire df (move .y .reverse .null) s

/-- `MOV Y, ::STATUS` (R256, R259, R261). -/
def execMovYRevStatus (df : BitVec 5) (s : State) : Host.Outcome State Fault Refusal :=
  retire df (move .y .reverse .status) s

/-- `MOV Y, ::ISR` (R257, R259, R261). -/
def execMovYRevIsr (df : BitVec 5) (s : State) : Host.Outcome State Fault Refusal :=
  retire df (move .y .reverse .isr) s

/-- `MOV Y, ::OSR` (R258, R259, R261). -/
def execMovYRevOsr (df : BitVec 5) (s : State) : Host.Outcome State Fault Refusal :=
  retire df (move .y .reverse .osr) s

/-- `MOV EXEC, PINS` (R252, R264). -/
def execMovExecPins (df : BitVec 5) (s : State) : Host.Outcome State Fault Refusal :=
  retire df (move .exec .none .pins) s

/-- `MOV EXEC, X` (R253, R264). -/
def execMovExecX (df : BitVec 5) (s : State) : Host.Outcome State Fault Refusal :=
  retire df (move .exec .none .x) s

/-- `MOV EXEC, Y` (R254, R264). -/
def execMovExecY (df : BitVec 5) (s : State) : Host.Outcome State Fault Refusal :=
  retire df (move .exec .none .y) s

/-- `MOV EXEC, NULL` (R255, R264). -/
def execMovExecNull (df : BitVec 5) (s : State) : Host.Outcome State Fault Refusal :=
  retire df (move .exec .none .null) s

/-- `MOV EXEC, STATUS` (R256, R264). -/
def execMovExecStatus (df : BitVec 5) (s : State) : Host.Outcome State Fault Refusal :=
  retire df (move .exec .none .status) s

/-- `MOV EXEC, ISR` (R257, R264). -/
def execMovExecIsr (df : BitVec 5) (s : State) : Host.Outcome State Fault Refusal :=
  retire df (move .exec .none .isr) s

/-- `MOV EXEC, OSR` (R258, R264). -/
def execMovExecOsr (df : BitVec 5) (s : State) : Host.Outcome State Fault Refusal :=
  retire df (move .exec .none .osr) s

/-- `MOV EXEC, ~PINS` (R252, R259, R264). -/
def execMovExecInvPins (df : BitVec 5) (s : State) : Host.Outcome State Fault Refusal :=
  retire df (move .exec .invert .pins) s

/-- `MOV EXEC, ~X` (R253, R259, R264). -/
def execMovExecInvX (df : BitVec 5) (s : State) : Host.Outcome State Fault Refusal :=
  retire df (move .exec .invert .x) s

/-- `MOV EXEC, ~Y` (R254, R259, R264). -/
def execMovExecInvY (df : BitVec 5) (s : State) : Host.Outcome State Fault Refusal :=
  retire df (move .exec .invert .y) s

/-- `MOV EXEC, ~NULL` (R255, R259, R264). -/
def execMovExecInvNull (df : BitVec 5) (s : State) : Host.Outcome State Fault Refusal :=
  retire df (move .exec .invert .null) s

/-- `MOV EXEC, ~STATUS` (R256, R259, R264). -/
def execMovExecInvStatus (df : BitVec 5) (s : State) : Host.Outcome State Fault Refusal :=
  retire df (move .exec .invert .status) s

/-- `MOV EXEC, ~ISR` (R257, R259, R264). -/
def execMovExecInvIsr (df : BitVec 5) (s : State) : Host.Outcome State Fault Refusal :=
  retire df (move .exec .invert .isr) s

/-- `MOV EXEC, ~OSR` (R258, R259, R264). -/
def execMovExecInvOsr (df : BitVec 5) (s : State) : Host.Outcome State Fault Refusal :=
  retire df (move .exec .invert .osr) s

/-- `MOV EXEC, ::PINS` (R252, R259, R264). -/
def execMovExecRevPins (df : BitVec 5) (s : State) : Host.Outcome State Fault Refusal :=
  retire df (move .exec .reverse .pins) s

/-- `MOV EXEC, ::X` (R253, R259, R264). -/
def execMovExecRevX (df : BitVec 5) (s : State) : Host.Outcome State Fault Refusal :=
  retire df (move .exec .reverse .x) s

/-- `MOV EXEC, ::Y` (R254, R259, R264). -/
def execMovExecRevY (df : BitVec 5) (s : State) : Host.Outcome State Fault Refusal :=
  retire df (move .exec .reverse .y) s

/-- `MOV EXEC, ::NULL` (R255, R259, R264). -/
def execMovExecRevNull (df : BitVec 5) (s : State) : Host.Outcome State Fault Refusal :=
  retire df (move .exec .reverse .null) s

/-- `MOV EXEC, ::STATUS` (R256, R259, R264). -/
def execMovExecRevStatus (df : BitVec 5) (s : State) : Host.Outcome State Fault Refusal :=
  retire df (move .exec .reverse .status) s

/-- `MOV EXEC, ::ISR` (R257, R259, R264). -/
def execMovExecRevIsr (df : BitVec 5) (s : State) : Host.Outcome State Fault Refusal :=
  retire df (move .exec .reverse .isr) s

/-- `MOV EXEC, ::OSR` (R258, R259, R264). -/
def execMovExecRevOsr (df : BitVec 5) (s : State) : Host.Outcome State Fault Refusal :=
  retire df (move .exec .reverse .osr) s

/-- `MOV PC, PINS` (R252, R262). -/
def execMovPcPins (df : BitVec 5) (s : State) : Host.Outcome State Fault Refusal :=
  retire df (move .pc .none .pins) s

/-- `MOV PC, X` (R253, R262). -/
def execMovPcX (df : BitVec 5) (s : State) : Host.Outcome State Fault Refusal :=
  retire df (move .pc .none .x) s

/-- `MOV PC, Y` (R254, R262). -/
def execMovPcY (df : BitVec 5) (s : State) : Host.Outcome State Fault Refusal :=
  retire df (move .pc .none .y) s

/-- `MOV PC, NULL` (R255, R262). -/
def execMovPcNull (df : BitVec 5) (s : State) : Host.Outcome State Fault Refusal :=
  retire df (move .pc .none .null) s

/-- `MOV PC, STATUS` (R256, R262). -/
def execMovPcStatus (df : BitVec 5) (s : State) : Host.Outcome State Fault Refusal :=
  retire df (move .pc .none .status) s

/-- `MOV PC, ISR` (R257, R262). -/
def execMovPcIsr (df : BitVec 5) (s : State) : Host.Outcome State Fault Refusal :=
  retire df (move .pc .none .isr) s

/-- `MOV PC, OSR` (R258, R262). -/
def execMovPcOsr (df : BitVec 5) (s : State) : Host.Outcome State Fault Refusal :=
  retire df (move .pc .none .osr) s

/-- `MOV PC, ~PINS` (R252, R259, R262). -/
def execMovPcInvPins (df : BitVec 5) (s : State) : Host.Outcome State Fault Refusal :=
  retire df (move .pc .invert .pins) s

/-- `MOV PC, ~X` (R253, R259, R262). -/
def execMovPcInvX (df : BitVec 5) (s : State) : Host.Outcome State Fault Refusal :=
  retire df (move .pc .invert .x) s

/-- `MOV PC, ~Y` (R254, R259, R262). -/
def execMovPcInvY (df : BitVec 5) (s : State) : Host.Outcome State Fault Refusal :=
  retire df (move .pc .invert .y) s

/-- `MOV PC, ~NULL` (R255, R259, R262). -/
def execMovPcInvNull (df : BitVec 5) (s : State) : Host.Outcome State Fault Refusal :=
  retire df (move .pc .invert .null) s

/-- `MOV PC, ~STATUS` (R256, R259, R262). -/
def execMovPcInvStatus (df : BitVec 5) (s : State) : Host.Outcome State Fault Refusal :=
  retire df (move .pc .invert .status) s

/-- `MOV PC, ~ISR` (R257, R259, R262). -/
def execMovPcInvIsr (df : BitVec 5) (s : State) : Host.Outcome State Fault Refusal :=
  retire df (move .pc .invert .isr) s

/-- `MOV PC, ~OSR` (R258, R259, R262). -/
def execMovPcInvOsr (df : BitVec 5) (s : State) : Host.Outcome State Fault Refusal :=
  retire df (move .pc .invert .osr) s

/-- `MOV PC, ::PINS` (R252, R259, R262). -/
def execMovPcRevPins (df : BitVec 5) (s : State) : Host.Outcome State Fault Refusal :=
  retire df (move .pc .reverse .pins) s

/-- `MOV PC, ::X` (R253, R259, R262). -/
def execMovPcRevX (df : BitVec 5) (s : State) : Host.Outcome State Fault Refusal :=
  retire df (move .pc .reverse .x) s

/-- `MOV PC, ::Y` (R254, R259, R262). -/
def execMovPcRevY (df : BitVec 5) (s : State) : Host.Outcome State Fault Refusal :=
  retire df (move .pc .reverse .y) s

/-- `MOV PC, ::NULL` (R255, R259, R262). -/
def execMovPcRevNull (df : BitVec 5) (s : State) : Host.Outcome State Fault Refusal :=
  retire df (move .pc .reverse .null) s

/-- `MOV PC, ::STATUS` (R256, R259, R262). -/
def execMovPcRevStatus (df : BitVec 5) (s : State) : Host.Outcome State Fault Refusal :=
  retire df (move .pc .reverse .status) s

/-- `MOV PC, ::ISR` (R257, R259, R262). -/
def execMovPcRevIsr (df : BitVec 5) (s : State) : Host.Outcome State Fault Refusal :=
  retire df (move .pc .reverse .isr) s

/-- `MOV PC, ::OSR` (R258, R259, R262). -/
def execMovPcRevOsr (df : BitVec 5) (s : State) : Host.Outcome State Fault Refusal :=
  retire df (move .pc .reverse .osr) s

/-- `MOV ISR, PINS` (R252, R263). -/
def execMovIsrPins (df : BitVec 5) (s : State) : Host.Outcome State Fault Refusal :=
  retire df (move .isr .none .pins) s

/-- `MOV ISR, X` (R253, R263). -/
def execMovIsrX (df : BitVec 5) (s : State) : Host.Outcome State Fault Refusal :=
  retire df (move .isr .none .x) s

/-- `MOV ISR, Y` (R254, R263). -/
def execMovIsrY (df : BitVec 5) (s : State) : Host.Outcome State Fault Refusal :=
  retire df (move .isr .none .y) s

/-- `MOV ISR, NULL` (R255, R263). -/
def execMovIsrNull (df : BitVec 5) (s : State) : Host.Outcome State Fault Refusal :=
  retire df (move .isr .none .null) s

/-- `MOV ISR, STATUS` (R256, R263). -/
def execMovIsrStatus (df : BitVec 5) (s : State) : Host.Outcome State Fault Refusal :=
  retire df (move .isr .none .status) s

/-- `MOV ISR, ISR` (R257, R263). -/
def execMovIsrIsr (df : BitVec 5) (s : State) : Host.Outcome State Fault Refusal :=
  retire df (move .isr .none .isr) s

/-- `MOV ISR, OSR` (R258, R263). -/
def execMovIsrOsr (df : BitVec 5) (s : State) : Host.Outcome State Fault Refusal :=
  retire df (move .isr .none .osr) s

/-- `MOV ISR, ~PINS` (R252, R259, R263). -/
def execMovIsrInvPins (df : BitVec 5) (s : State) : Host.Outcome State Fault Refusal :=
  retire df (move .isr .invert .pins) s

/-- `MOV ISR, ~X` (R253, R259, R263). -/
def execMovIsrInvX (df : BitVec 5) (s : State) : Host.Outcome State Fault Refusal :=
  retire df (move .isr .invert .x) s

/-- `MOV ISR, ~Y` (R254, R259, R263). -/
def execMovIsrInvY (df : BitVec 5) (s : State) : Host.Outcome State Fault Refusal :=
  retire df (move .isr .invert .y) s

/-- `MOV ISR, ~NULL` (R255, R259, R263). -/
def execMovIsrInvNull (df : BitVec 5) (s : State) : Host.Outcome State Fault Refusal :=
  retire df (move .isr .invert .null) s

/-- `MOV ISR, ~STATUS` (R256, R259, R263). -/
def execMovIsrInvStatus (df : BitVec 5) (s : State) : Host.Outcome State Fault Refusal :=
  retire df (move .isr .invert .status) s

/-- `MOV ISR, ~ISR` (R257, R259, R263). -/
def execMovIsrInvIsr (df : BitVec 5) (s : State) : Host.Outcome State Fault Refusal :=
  retire df (move .isr .invert .isr) s

/-- `MOV ISR, ~OSR` (R258, R259, R263). -/
def execMovIsrInvOsr (df : BitVec 5) (s : State) : Host.Outcome State Fault Refusal :=
  retire df (move .isr .invert .osr) s

/-- `MOV ISR, ::PINS` (R252, R259, R263). -/
def execMovIsrRevPins (df : BitVec 5) (s : State) : Host.Outcome State Fault Refusal :=
  retire df (move .isr .reverse .pins) s

/-- `MOV ISR, ::X` (R253, R259, R263). -/
def execMovIsrRevX (df : BitVec 5) (s : State) : Host.Outcome State Fault Refusal :=
  retire df (move .isr .reverse .x) s

/-- `MOV ISR, ::Y` (R254, R259, R263). -/
def execMovIsrRevY (df : BitVec 5) (s : State) : Host.Outcome State Fault Refusal :=
  retire df (move .isr .reverse .y) s

/-- `MOV ISR, ::NULL` (R255, R259, R263). -/
def execMovIsrRevNull (df : BitVec 5) (s : State) : Host.Outcome State Fault Refusal :=
  retire df (move .isr .reverse .null) s

/-- `MOV ISR, ::STATUS` (R256, R259, R263). -/
def execMovIsrRevStatus (df : BitVec 5) (s : State) : Host.Outcome State Fault Refusal :=
  retire df (move .isr .reverse .status) s

/-- `MOV ISR, ::ISR` (R257, R259, R263). -/
def execMovIsrRevIsr (df : BitVec 5) (s : State) : Host.Outcome State Fault Refusal :=
  retire df (move .isr .reverse .isr) s

/-- `MOV ISR, ::OSR` (R258, R259, R263). -/
def execMovIsrRevOsr (df : BitVec 5) (s : State) : Host.Outcome State Fault Refusal :=
  retire df (move .isr .reverse .osr) s

/-- `MOV OSR, PINS` (R252, R263). -/
def execMovOsrPins (df : BitVec 5) (s : State) : Host.Outcome State Fault Refusal :=
  retire df (move .osr .none .pins) s

/-- `MOV OSR, X` (R253, R263). -/
def execMovOsrX (df : BitVec 5) (s : State) : Host.Outcome State Fault Refusal :=
  retire df (move .osr .none .x) s

/-- `MOV OSR, Y` (R254, R263). -/
def execMovOsrY (df : BitVec 5) (s : State) : Host.Outcome State Fault Refusal :=
  retire df (move .osr .none .y) s

/-- `MOV OSR, NULL` (R255, R263). -/
def execMovOsrNull (df : BitVec 5) (s : State) : Host.Outcome State Fault Refusal :=
  retire df (move .osr .none .null) s

/-- `MOV OSR, STATUS` (R256, R263). -/
def execMovOsrStatus (df : BitVec 5) (s : State) : Host.Outcome State Fault Refusal :=
  retire df (move .osr .none .status) s

/-- `MOV OSR, ISR` (R257, R263). -/
def execMovOsrIsr (df : BitVec 5) (s : State) : Host.Outcome State Fault Refusal :=
  retire df (move .osr .none .isr) s

/-- `MOV OSR, OSR` (R258, R263). -/
def execMovOsrOsr (df : BitVec 5) (s : State) : Host.Outcome State Fault Refusal :=
  retire df (move .osr .none .osr) s

/-- `MOV OSR, ~PINS` (R252, R259, R263). -/
def execMovOsrInvPins (df : BitVec 5) (s : State) : Host.Outcome State Fault Refusal :=
  retire df (move .osr .invert .pins) s

/-- `MOV OSR, ~X` (R253, R259, R263). -/
def execMovOsrInvX (df : BitVec 5) (s : State) : Host.Outcome State Fault Refusal :=
  retire df (move .osr .invert .x) s

/-- `MOV OSR, ~Y` (R254, R259, R263). -/
def execMovOsrInvY (df : BitVec 5) (s : State) : Host.Outcome State Fault Refusal :=
  retire df (move .osr .invert .y) s

/-- `MOV OSR, ~NULL` (R255, R259, R263). -/
def execMovOsrInvNull (df : BitVec 5) (s : State) : Host.Outcome State Fault Refusal :=
  retire df (move .osr .invert .null) s

/-- `MOV OSR, ~STATUS` (R256, R259, R263). -/
def execMovOsrInvStatus (df : BitVec 5) (s : State) : Host.Outcome State Fault Refusal :=
  retire df (move .osr .invert .status) s

/-- `MOV OSR, ~ISR` (R257, R259, R263). -/
def execMovOsrInvIsr (df : BitVec 5) (s : State) : Host.Outcome State Fault Refusal :=
  retire df (move .osr .invert .isr) s

/-- `MOV OSR, ~OSR` (R258, R259, R263). -/
def execMovOsrInvOsr (df : BitVec 5) (s : State) : Host.Outcome State Fault Refusal :=
  retire df (move .osr .invert .osr) s

/-- `MOV OSR, ::PINS` (R252, R259, R263). -/
def execMovOsrRevPins (df : BitVec 5) (s : State) : Host.Outcome State Fault Refusal :=
  retire df (move .osr .reverse .pins) s

/-- `MOV OSR, ::X` (R253, R259, R263). -/
def execMovOsrRevX (df : BitVec 5) (s : State) : Host.Outcome State Fault Refusal :=
  retire df (move .osr .reverse .x) s

/-- `MOV OSR, ::Y` (R254, R259, R263). -/
def execMovOsrRevY (df : BitVec 5) (s : State) : Host.Outcome State Fault Refusal :=
  retire df (move .osr .reverse .y) s

/-- `MOV OSR, ::NULL` (R255, R259, R263). -/
def execMovOsrRevNull (df : BitVec 5) (s : State) : Host.Outcome State Fault Refusal :=
  retire df (move .osr .reverse .null) s

/-- `MOV OSR, ::STATUS` (R256, R259, R263). -/
def execMovOsrRevStatus (df : BitVec 5) (s : State) : Host.Outcome State Fault Refusal :=
  retire df (move .osr .reverse .status) s

/-- `MOV OSR, ::ISR` (R257, R259, R263). -/
def execMovOsrRevIsr (df : BitVec 5) (s : State) : Host.Outcome State Fault Refusal :=
  retire df (move .osr .reverse .isr) s

/-- `MOV OSR, ::OSR` (R258, R259, R263). -/
def execMovOsrRevOsr (df : BitVec 5) (s : State) : Host.Outcome State Fault Refusal :=
  retire df (move .osr .reverse .osr) s

end Sys2Proof.Machine
end

