-- ==== Sys2Proof/Machine/Out.lean ====
section
/-! DEFINITION. OUT (spec/44_out.md). -/

namespace Sys2Proof.Machine

/-- R221: the result of OUT, given whether the autopull must wait. -/
def outResult (dst : OutDst) (stall : Bool) : ResultState :=
  match dst with
  | .exec => .stall
  | .pc => .jump
  | .pins | .x | .y | .null | .pindirs | .isr => if stall then .stall else .complete

/-- R221: shift out of the OSR, deliver, then autopull. The first two stand even when the pull must wait, and are
done again at each re-run (R230). -/
def shiftOut (dst : OutDst) (n : Nat) (v : View) : Except Fault (View × ResultState) :=
  match v.shiftOutOfOsr n with
  | .error e => .error e
  | .ok (data, v1) =>
    match v1.outDeliver dst data n with
    | .error e => .error e
    | .ok v2 =>
      let p := v2.txPull true true
      .ok (p.2, outResult dst p.1)

/-- `OUT PINS` (R222). -/
def execOutPins (df : BitVec 5) (bitCount : Nat) (s : State) : Host.Outcome State Fault Refusal :=
  retire df (shiftOut .pins bitCount) s

/-- `OUT X` (R223). -/
def execOutX (df : BitVec 5) (bitCount : Nat) (s : State) : Host.Outcome State Fault Refusal :=
  retire df (shiftOut .x bitCount) s

/-- `OUT Y` (R224). -/
def execOutY (df : BitVec 5) (bitCount : Nat) (s : State) : Host.Outcome State Fault Refusal :=
  retire df (shiftOut .y bitCount) s

/-- `OUT NULL` (R225). -/
def execOutNull (df : BitVec 5) (bitCount : Nat) (s : State) : Host.Outcome State Fault Refusal :=
  retire df (shiftOut .null bitCount) s

/-- `OUT PINDIRS` (R228). -/
def execOutPindirs (df : BitVec 5) (bitCount : Nat) (s : State) : Host.Outcome State Fault Refusal :=
  retire df (shiftOut .pindirs bitCount) s

/-- `OUT PC` (R226). -/
def execOutPc (df : BitVec 5) (bitCount : Nat) (s : State) : Host.Outcome State Fault Refusal :=
  retire df (shiftOut .pc bitCount) s

/-- `OUT ISR` (R227). -/
def execOutIsr (df : BitVec 5) (bitCount : Nat) (s : State) : Host.Outcome State Fault Refusal :=
  retire df (shiftOut .isr bitCount) s

/-- `OUT EXEC` (R229). -/
def execOutExec (df : BitVec 5) (bitCount : Nat) (s : State) : Host.Outcome State Fault Refusal :=
  retire df (shiftOut .exec bitCount) s

end Sys2Proof.Machine
end

