-- ==== Sys2Proof/Machine/PushPull.lean ====
section
/-! DEFINITION. PUSH and PULL (spec/45_push_pull.md). -/

namespace Sys2Proof.Machine

/-- `PUSH` (R240). -/
def execPush (df : BitVec 5) (ifFull block : Bool) (s : State) : Host.Outcome State Fault Refusal :=
  retire df (fun v => let p := v.rxPush ifFull block; .ok (p.2, if p.1 then .stall else .complete)) s

/-- `PULL` (R241). -/
def execPull (df : BitVec 5) (ifEmpty block : Bool) (s : State) : Host.Outcome State Fault Refusal :=
  retire df (fun v => let p := v.txPull ifEmpty block; .ok (p.2, if p.1 then .stall else .complete)) s

end Sys2Proof.Machine
end

