-- ==== Sys2Proof/Machine/Reserved.lean ====
section
/-! DEFINITION. The RESERVED rows of spec/opcode_table.json (30_encoding.md R128). Executing one raises the decode error of
60_exceptions.md R343 with the whole word, which is the opcode class, `df` and the low byte. -/

namespace Sys2Proof.Machine

/-- RESERVED WAIT source 3 (R204, R343). -/
def execReservedWaitSource3 (df : BitVec 5) (lsb : Byte) (s : State) : Host.Outcome State Fault Refusal :=
  decodeError (0b001#3 ++ df ++ lsb) s

/-- RESERVED WAIT IRQ index bit 3 (R127, R343). -/
def execReservedWaitIrqIndexBit3 (df : BitVec 5) (lsb : Byte) (s : State) : Host.Outcome State Fault Refusal :=
  decodeError (0b001#3 ++ df ++ lsb) s

/-- RESERVED WAIT IRQ index bits 4 and 2 (R127, R343). -/
def execReservedWaitIrqIndexBits4And2 (df : BitVec 5) (lsb : Byte) (s : State) : Host.Outcome State Fault Refusal :=
  decodeError (0b001#3 ++ df ++ lsb) s

/-- RESERVED IN sources 4 and 5 (R218, R343). -/
def execReservedInSources4And5 (df : BitVec 5) (lsb : Byte) (s : State) : Host.Outcome State Fault Refusal :=
  decodeError (0b010#3 ++ df ++ lsb) s

/-- RESERVED PUSH/PULL lsb bit 0 (R242, R343). -/
def execReservedPushPullBit0 (df : BitVec 5) (lsb : Byte) (s : State) : Host.Outcome State Fault Refusal :=
  decodeError (0b100#3 ++ df ++ lsb) s

/-- RESERVED PUSH/PULL lsb bit 1 (R242, R343). -/
def execReservedPushPullBit1 (df : BitVec 5) (lsb : Byte) (s : State) : Host.Outcome State Fault Refusal :=
  decodeError (0b100#3 ++ df ++ lsb) s

/-- RESERVED PUSH/PULL lsb bit 2 (R242, R343). -/
def execReservedPushPullBit2 (df : BitVec 5) (lsb : Byte) (s : State) : Host.Outcome State Fault Refusal :=
  decodeError (0b100#3 ++ df ++ lsb) s

/-- RESERVED PUSH/PULL lsb bit 3 (R242, R343). -/
def execReservedPushPullBit3 (df : BitVec 5) (lsb : Byte) (s : State) : Host.Outcome State Fault Refusal :=
  decodeError (0b100#3 ++ df ++ lsb) s

/-- RESERVED PUSH/PULL lsb bit 4 (R242, R343). -/
def execReservedPushPullBit4 (df : BitVec 5) (lsb : Byte) (s : State) : Host.Outcome State Fault Refusal :=
  decodeError (0b100#3 ++ df ++ lsb) s

/-- RESERVED MOV destination 3 (R265, R343). -/
def execReservedMovDestination3 (df : BitVec 5) (lsb : Byte) (s : State) : Host.Outcome State Fault Refusal :=
  decodeError (0b101#3 ++ df ++ lsb) s

/-- RESERVED MOV op 3 (R265, R343). -/
def execReservedMovOp3 (df : BitVec 5) (lsb : Byte) (s : State) : Host.Outcome State Fault Refusal :=
  decodeError (0b101#3 ++ df ++ lsb) s

/-- RESERVED MOV source 4 (R265, R343). -/
def execReservedMovSource4 (df : BitVec 5) (lsb : Byte) (s : State) : Host.Outcome State Fault Refusal :=
  decodeError (0b101#3 ++ df ++ lsb) s

/-- RESERVED IRQ lsb bit 7 (R274, R343). -/
def execReservedIrqBit7 (df : BitVec 5) (lsb : Byte) (s : State) : Host.Outcome State Fault Refusal :=
  decodeError (0b110#3 ++ df ++ lsb) s

/-- RESERVED IRQ index bit 3 (R274, R343). -/
def execReservedIrqIndexBit3 (df : BitVec 5) (lsb : Byte) (s : State) : Host.Outcome State Fault Refusal :=
  decodeError (0b110#3 ++ df ++ lsb) s

/-- RESERVED IRQ index bits 4 and 2 (R274, R343). -/
def execReservedIrqIndexBits4And2 (df : BitVec 5) (lsb : Byte) (s : State) : Host.Outcome State Fault Refusal :=
  decodeError (0b110#3 ++ df ++ lsb) s

/-- RESERVED SET destination 3 (R285, R343). -/
def execReservedSetDestination3 (df : BitVec 5) (lsb : Byte) (s : State) : Host.Outcome State Fault Refusal :=
  decodeError (0b111#3 ++ df ++ lsb) s

/-- RESERVED SET destination 5 (R285, R343). -/
def execReservedSetDestination5 (df : BitVec 5) (lsb : Byte) (s : State) : Host.Outcome State Fault Refusal :=
  decodeError (0b111#3 ++ df ++ lsb) s

/-- RESERVED SET destinations 6 and 7 (R285, R343). -/
def execReservedSetDestinations6And7 (df : BitVec 5) (lsb : Byte) (s : State) : Host.Outcome State Fault Refusal :=
  decodeError (0b111#3 ++ df ++ lsb) s

end Sys2Proof.Machine
end

