-- ==== Sys2Proof/Machine/Set.lean ====
section
/-! DEFINITION. SET (spec/48_set.md). -/

namespace Sys2Proof.Machine

/-- R280 to R284: the write of a SET; always COMPLETE. -/
def setWrite (dst : SetDst) (data : BitVec 5) (v : View) : Except Fault (View × ResultState) :=
  match dst with
  | .pins => .ok (v.setSetPins (data.setWidth 32), .complete)
  | .x => .ok (v.setX (data.setWidth 32), .complete)
  | .y => .ok (v.setY (data.setWidth 32), .complete)
  | .pindirs => .ok (v.setSetPinDirs (data.setWidth 32), .complete)

/-- `SET PINS` (R281). -/
def execSetPins (df : BitVec 5) (data : BitVec 5) (s : State) : Host.Outcome State Fault Refusal :=
  retire df (setWrite .pins data) s

/-- `SET X` (R282). -/
def execSetX (df : BitVec 5) (data : BitVec 5) (s : State) : Host.Outcome State Fault Refusal :=
  retire df (setWrite .x data) s

/-- `SET Y` (R283). -/
def execSetY (df : BitVec 5) (data : BitVec 5) (s : State) : Host.Outcome State Fault Refusal :=
  retire df (setWrite .y data) s

/-- `SET PINDIRS` (R284). -/
def execSetPindirs (df : BitVec 5) (data : BitVec 5) (s : State) : Host.Outcome State Fault Refusal :=
  retire df (setWrite .pindirs data) s

end Sys2Proof.Machine
end

