-- ==== Sys2Proof/Machine/Wait.lean ====
section
/-! DEFINITION. WAIT (spec/42_wait.md). -/

namespace Sys2Proof.Machine

/-- R200: STALL while the sample differs from the polarity; when it agrees, COMPLETE with the effect of `after`. -/
def waitFor (polarity sample : Bool) (after : View → View) (v : View) : Except Fault (View × ResultState) :=
  .ok (if sample == polarity then (after v, .complete) else (v, .stall))

/-- R203: wait on an IRQ flag; a satisfied wait for HIGH clears the flag. -/
def waitForIrq (polarity : Bool) (index : IrqIndex) (v : View) : Except Fault (View × ResultState) :=
  let n := irqNum v.num index
  waitFor polarity (irqGet v.shared.irq n) (fun v => if polarity then v.irqClear n else v) v

/-- `WAIT GPIO` (R201): the absolute pin `index`. -/
def execWaitGpio (df : BitVec 5) (polarity : Bool) (index : Index) (s : State) : Host.Outcome State Fault Refusal :=
  retire df (fun v => waitFor polarity (v.getBit index) (fun v => v) v) s

/-- `WAIT PIN` (R202): pin `(IN_BASE + index) & 31`. -/
def execWaitPin (df : BitVec 5) (polarity : Bool) (index : Index) (s : State) : Host.Outcome State Fault Refusal :=
  retire df (fun v => waitFor polarity (v.getBit (v.sm.pinctrl.inBase + index)) (fun v => v) v) s

/-- `WAIT IRQ` (R203), an absolute flag number. -/
def execWaitIrq (df : BitVec 5) (polarity : Bool) (index : BitVec 3) (s : State) : Host.Outcome State Fault Refusal :=
  retire df (waitForIrq polarity (.abs index)) s

/-- `WAIT IRQ REL` (R203), a flag number relative to the SM. -/
def execWaitIrqRel (df : BitVec 5) (polarity : Bool) (index : BitVec 2) (s : State) : Host.Outcome State Fault Refusal :=
  retire df (waitForIrq polarity (.rel index)) s

end Sys2Proof.Machine
end

