-- ==== Sys2Proof/Machine/Dispatch.lean ====
section
/-! DEFINITION. One arm for each constructor of `Instr`: its meaning on the current SM (49_engine.md R292 steps 4
to 8, with the word already fetched). -/

namespace Sys2Proof.Machine

def exec (i : Instr) (s : State) : Host.Outcome State Fault Refusal :=
  match i with
  | .jmp df address => Sys2Proof.Machine.execJmp df address s
  | .jmpNotX df address => Sys2Proof.Machine.execJmpNotX df address s
  | .jmpXDec df address => Sys2Proof.Machine.execJmpXDec df address s
  | .jmpNotY df address => Sys2Proof.Machine.execJmpNotY df address s
  | .jmpYDec df address => Sys2Proof.Machine.execJmpYDec df address s
  | .jmpXNeY df address => Sys2Proof.Machine.execJmpXNeY df address s
  | .jmpPin df address => Sys2Proof.Machine.execJmpPin df address s
  | .jmpNotOsre df address => Sys2Proof.Machine.execJmpNotOsre df address s
  | .waitGpio df polarity index => Sys2Proof.Machine.execWaitGpio df polarity index s
  | .waitPin df polarity index => Sys2Proof.Machine.execWaitPin df polarity index s
  | .waitIrq df polarity index => Sys2Proof.Machine.execWaitIrq df polarity index s
  | .waitIrqRel df polarity index => Sys2Proof.Machine.execWaitIrqRel df polarity index s
  | .inPins df bitCount => Sys2Proof.Machine.execInPins df bitCount s
  | .inX df bitCount => Sys2Proof.Machine.execInX df bitCount s
  | .inY df bitCount => Sys2Proof.Machine.execInY df bitCount s
  | .inNull df bitCount => Sys2Proof.Machine.execInNull df bitCount s
  | .inIsr df bitCount => Sys2Proof.Machine.execInIsr df bitCount s
  | .inOsr df bitCount => Sys2Proof.Machine.execInOsr df bitCount s
  | .outPins df bitCount => Sys2Proof.Machine.execOutPins df bitCount s
  | .outX df bitCount => Sys2Proof.Machine.execOutX df bitCount s
  | .outY df bitCount => Sys2Proof.Machine.execOutY df bitCount s
  | .outNull df bitCount => Sys2Proof.Machine.execOutNull df bitCount s
  | .outPindirs df bitCount => Sys2Proof.Machine.execOutPindirs df bitCount s
  | .outPc df bitCount => Sys2Proof.Machine.execOutPc df bitCount s
  | .outIsr df bitCount => Sys2Proof.Machine.execOutIsr df bitCount s
  | .outExec df bitCount => Sys2Proof.Machine.execOutExec df bitCount s
  | .push df ifFull block => Sys2Proof.Machine.execPush df ifFull block s
  | .pull df ifEmpty block => Sys2Proof.Machine.execPull df ifEmpty block s
  | .movPinsPins df => Sys2Proof.Machine.execMovPinsPins df s
  | .movPinsX df => Sys2Proof.Machine.execMovPinsX df s
  | .movPinsY df => Sys2Proof.Machine.execMovPinsY df s
  | .movPinsNull df => Sys2Proof.Machine.execMovPinsNull df s
  | .movPinsStatus df => Sys2Proof.Machine.execMovPinsStatus df s
  | .movPinsIsr df => Sys2Proof.Machine.execMovPinsIsr df s
  | .movPinsOsr df => Sys2Proof.Machine.execMovPinsOsr df s
  | .movPinsInvPins df => Sys2Proof.Machine.execMovPinsInvPins df s
  | .movPinsInvX df => Sys2Proof.Machine.execMovPinsInvX df s
  | .movPinsInvY df => Sys2Proof.Machine.execMovPinsInvY df s
  | .movPinsInvNull df => Sys2Proof.Machine.execMovPinsInvNull df s
  | .movPinsInvStatus df => Sys2Proof.Machine.execMovPinsInvStatus df s
  | .movPinsInvIsr df => Sys2Proof.Machine.execMovPinsInvIsr df s
  | .movPinsInvOsr df => Sys2Proof.Machine.execMovPinsInvOsr df s
  | .movPinsRevPins df => Sys2Proof.Machine.execMovPinsRevPins df s
  | .movPinsRevX df => Sys2Proof.Machine.execMovPinsRevX df s
  | .movPinsRevY df => Sys2Proof.Machine.execMovPinsRevY df s
  | .movPinsRevNull df => Sys2Proof.Machine.execMovPinsRevNull df s
  | .movPinsRevStatus df => Sys2Proof.Machine.execMovPinsRevStatus df s
  | .movPinsRevIsr df => Sys2Proof.Machine.execMovPinsRevIsr df s
  | .movPinsRevOsr df => Sys2Proof.Machine.execMovPinsRevOsr df s
  | .movXPins df => Sys2Proof.Machine.execMovXPins df s
  | .movXX df => Sys2Proof.Machine.execMovXX df s
  | .movXY df => Sys2Proof.Machine.execMovXY df s
  | .movXNull df => Sys2Proof.Machine.execMovXNull df s
  | .movXStatus df => Sys2Proof.Machine.execMovXStatus df s
  | .movXIsr df => Sys2Proof.Machine.execMovXIsr df s
  | .movXOsr df => Sys2Proof.Machine.execMovXOsr df s
  | .movXInvPins df => Sys2Proof.Machine.execMovXInvPins df s
  | .movXInvX df => Sys2Proof.Machine.execMovXInvX df s
  | .movXInvY df => Sys2Proof.Machine.execMovXInvY df s
  | .movXInvNull df => Sys2Proof.Machine.execMovXInvNull df s
  | .movXInvStatus df => Sys2Proof.Machine.execMovXInvStatus df s
  | .movXInvIsr df => Sys2Proof.Machine.execMovXInvIsr df s
  | .movXInvOsr df => Sys2Proof.Machine.execMovXInvOsr df s
  | .movXRevPins df => Sys2Proof.Machine.execMovXRevPins df s
  | .movXRevX df => Sys2Proof.Machine.execMovXRevX df s
  | .movXRevY df => Sys2Proof.Machine.execMovXRevY df s
  | .movXRevNull df => Sys2Proof.Machine.execMovXRevNull df s
  | .movXRevStatus df => Sys2Proof.Machine.execMovXRevStatus df s
  | .movXRevIsr df => Sys2Proof.Machine.execMovXRevIsr df s
  | .movXRevOsr df => Sys2Proof.Machine.execMovXRevOsr df s
  | .movYPins df => Sys2Proof.Machine.execMovYPins df s
  | .movYX df => Sys2Proof.Machine.execMovYX df s
  | .movYY df => Sys2Proof.Machine.execMovYY df s
  | .movYNull df => Sys2Proof.Machine.execMovYNull df s
  | .movYStatus df => Sys2Proof.Machine.execMovYStatus df s
  | .movYIsr df => Sys2Proof.Machine.execMovYIsr df s
  | .movYOsr df => Sys2Proof.Machine.execMovYOsr df s
  | .movYInvPins df => Sys2Proof.Machine.execMovYInvPins df s
  | .movYInvX df => Sys2Proof.Machine.execMovYInvX df s
  | .movYInvY df => Sys2Proof.Machine.execMovYInvY df s
  | .movYInvNull df => Sys2Proof.Machine.execMovYInvNull df s
  | .movYInvStatus df => Sys2Proof.Machine.execMovYInvStatus df s
  | .movYInvIsr df => Sys2Proof.Machine.execMovYInvIsr df s
  | .movYInvOsr df => Sys2Proof.Machine.execMovYInvOsr df s
  | .movYRevPins df => Sys2Proof.Machine.execMovYRevPins df s
  | .movYRevX df => Sys2Proof.Machine.execMovYRevX df s
  | .movYRevY df => Sys2Proof.Machine.execMovYRevY df s
  | .movYRevNull df => Sys2Proof.Machine.execMovYRevNull df s
  | .movYRevStatus df => Sys2Proof.Machine.execMovYRevStatus df s
  | .movYRevIsr df => Sys2Proof.Machine.execMovYRevIsr df s
  | .movYRevOsr df => Sys2Proof.Machine.execMovYRevOsr df s
  | .movExecPins df => Sys2Proof.Machine.execMovExecPins df s
  | .movExecX df => Sys2Proof.Machine.execMovExecX df s
  | .movExecY df => Sys2Proof.Machine.execMovExecY df s
  | .movExecNull df => Sys2Proof.Machine.execMovExecNull df s
  | .movExecStatus df => Sys2Proof.Machine.execMovExecStatus df s
  | .movExecIsr df => Sys2Proof.Machine.execMovExecIsr df s
  | .movExecOsr df => Sys2Proof.Machine.execMovExecOsr df s
  | .movExecInvPins df => Sys2Proof.Machine.execMovExecInvPins df s
  | .movExecInvX df => Sys2Proof.Machine.execMovExecInvX df s
  | .movExecInvY df => Sys2Proof.Machine.execMovExecInvY df s
  | .movExecInvNull df => Sys2Proof.Machine.execMovExecInvNull df s
  | .movExecInvStatus df => Sys2Proof.Machine.execMovExecInvStatus df s
  | .movExecInvIsr df => Sys2Proof.Machine.execMovExecInvIsr df s
  | .movExecInvOsr df => Sys2Proof.Machine.execMovExecInvOsr df s
  | .movExecRevPins df => Sys2Proof.Machine.execMovExecRevPins df s
  | .movExecRevX df => Sys2Proof.Machine.execMovExecRevX df s
  | .movExecRevY df => Sys2Proof.Machine.execMovExecRevY df s
  | .movExecRevNull df => Sys2Proof.Machine.execMovExecRevNull df s
  | .movExecRevStatus df => Sys2Proof.Machine.execMovExecRevStatus df s
  | .movExecRevIsr df => Sys2Proof.Machine.execMovExecRevIsr df s
  | .movExecRevOsr df => Sys2Proof.Machine.execMovExecRevOsr df s
  | .movPcPins df => Sys2Proof.Machine.execMovPcPins df s
  | .movPcX df => Sys2Proof.Machine.execMovPcX df s
  | .movPcY df => Sys2Proof.Machine.execMovPcY df s
  | .movPcNull df => Sys2Proof.Machine.execMovPcNull df s
  | .movPcStatus df => Sys2Proof.Machine.execMovPcStatus df s
  | .movPcIsr df => Sys2Proof.Machine.execMovPcIsr df s
  | .movPcOsr df => Sys2Proof.Machine.execMovPcOsr df s
  | .movPcInvPins df => Sys2Proof.Machine.execMovPcInvPins df s
  | .movPcInvX df => Sys2Proof.Machine.execMovPcInvX df s
  | .movPcInvY df => Sys2Proof.Machine.execMovPcInvY df s
  | .movPcInvNull df => Sys2Proof.Machine.execMovPcInvNull df s
  | .movPcInvStatus df => Sys2Proof.Machine.execMovPcInvStatus df s
  | .movPcInvIsr df => Sys2Proof.Machine.execMovPcInvIsr df s
  | .movPcInvOsr df => Sys2Proof.Machine.execMovPcInvOsr df s
  | .movPcRevPins df => Sys2Proof.Machine.execMovPcRevPins df s
  | .movPcRevX df => Sys2Proof.Machine.execMovPcRevX df s
  | .movPcRevY df => Sys2Proof.Machine.execMovPcRevY df s
  | .movPcRevNull df => Sys2Proof.Machine.execMovPcRevNull df s
  | .movPcRevStatus df => Sys2Proof.Machine.execMovPcRevStatus df s
  | .movPcRevIsr df => Sys2Proof.Machine.execMovPcRevIsr df s
  | .movPcRevOsr df => Sys2Proof.Machine.execMovPcRevOsr df s
  | .movIsrPins df => Sys2Proof.Machine.execMovIsrPins df s
  | .movIsrX df => Sys2Proof.Machine.execMovIsrX df s
  | .movIsrY df => Sys2Proof.Machine.execMovIsrY df s
  | .movIsrNull df => Sys2Proof.Machine.execMovIsrNull df s
  | .movIsrStatus df => Sys2Proof.Machine.execMovIsrStatus df s
  | .movIsrIsr df => Sys2Proof.Machine.execMovIsrIsr df s
  | .movIsrOsr df => Sys2Proof.Machine.execMovIsrOsr df s
  | .movIsrInvPins df => Sys2Proof.Machine.execMovIsrInvPins df s
  | .movIsrInvX df => Sys2Proof.Machine.execMovIsrInvX df s
  | .movIsrInvY df => Sys2Proof.Machine.execMovIsrInvY df s
  | .movIsrInvNull df => Sys2Proof.Machine.execMovIsrInvNull df s
  | .movIsrInvStatus df => Sys2Proof.Machine.execMovIsrInvStatus df s
  | .movIsrInvIsr df => Sys2Proof.Machine.execMovIsrInvIsr df s
  | .movIsrInvOsr df => Sys2Proof.Machine.execMovIsrInvOsr df s
  | .movIsrRevPins df => Sys2Proof.Machine.execMovIsrRevPins df s
  | .movIsrRevX df => Sys2Proof.Machine.execMovIsrRevX df s
  | .movIsrRevY df => Sys2Proof.Machine.execMovIsrRevY df s
  | .movIsrRevNull df => Sys2Proof.Machine.execMovIsrRevNull df s
  | .movIsrRevStatus df => Sys2Proof.Machine.execMovIsrRevStatus df s
  | .movIsrRevIsr df => Sys2Proof.Machine.execMovIsrRevIsr df s
  | .movIsrRevOsr df => Sys2Proof.Machine.execMovIsrRevOsr df s
  | .movOsrPins df => Sys2Proof.Machine.execMovOsrPins df s
  | .movOsrX df => Sys2Proof.Machine.execMovOsrX df s
  | .movOsrY df => Sys2Proof.Machine.execMovOsrY df s
  | .movOsrNull df => Sys2Proof.Machine.execMovOsrNull df s
  | .movOsrStatus df => Sys2Proof.Machine.execMovOsrStatus df s
  | .movOsrIsr df => Sys2Proof.Machine.execMovOsrIsr df s
  | .movOsrOsr df => Sys2Proof.Machine.execMovOsrOsr df s
  | .movOsrInvPins df => Sys2Proof.Machine.execMovOsrInvPins df s
  | .movOsrInvX df => Sys2Proof.Machine.execMovOsrInvX df s
  | .movOsrInvY df => Sys2Proof.Machine.execMovOsrInvY df s
  | .movOsrInvNull df => Sys2Proof.Machine.execMovOsrInvNull df s
  | .movOsrInvStatus df => Sys2Proof.Machine.execMovOsrInvStatus df s
  | .movOsrInvIsr df => Sys2Proof.Machine.execMovOsrInvIsr df s
  | .movOsrInvOsr df => Sys2Proof.Machine.execMovOsrInvOsr df s
  | .movOsrRevPins df => Sys2Proof.Machine.execMovOsrRevPins df s
  | .movOsrRevX df => Sys2Proof.Machine.execMovOsrRevX df s
  | .movOsrRevY df => Sys2Proof.Machine.execMovOsrRevY df s
  | .movOsrRevNull df => Sys2Proof.Machine.execMovOsrRevNull df s
  | .movOsrRevStatus df => Sys2Proof.Machine.execMovOsrRevStatus df s
  | .movOsrRevIsr df => Sys2Proof.Machine.execMovOsrRevIsr df s
  | .movOsrRevOsr df => Sys2Proof.Machine.execMovOsrRevOsr df s
  | .irqSet df index => Sys2Proof.Machine.execIrqSet df index s
  | .irqSetRel df index => Sys2Proof.Machine.execIrqSetRel df index s
  | .irqWait df index => Sys2Proof.Machine.execIrqWait df index s
  | .irqWaitRel df index => Sys2Proof.Machine.execIrqWaitRel df index s
  | .irqClear df wait index => Sys2Proof.Machine.execIrqClear df wait index s
  | .irqClearRel df wait index => Sys2Proof.Machine.execIrqClearRel df wait index s
  | .setPins df data => Sys2Proof.Machine.execSetPins df data s
  | .setX df data => Sys2Proof.Machine.execSetX df data s
  | .setY df data => Sys2Proof.Machine.execSetY df data s
  | .setPindirs df data => Sys2Proof.Machine.execSetPindirs df data s
  | .reservedWaitSource3 df lsb => Sys2Proof.Machine.execReservedWaitSource3 df lsb s
  | .reservedWaitIrqIndexBit3 df lsb => Sys2Proof.Machine.execReservedWaitIrqIndexBit3 df lsb s
  | .reservedWaitIrqIndexBits4And2 df lsb => Sys2Proof.Machine.execReservedWaitIrqIndexBits4And2 df lsb s
  | .reservedInSources4And5 df lsb => Sys2Proof.Machine.execReservedInSources4And5 df lsb s
  | .reservedPushPullBit0 df lsb => Sys2Proof.Machine.execReservedPushPullBit0 df lsb s
  | .reservedPushPullBit1 df lsb => Sys2Proof.Machine.execReservedPushPullBit1 df lsb s
  | .reservedPushPullBit2 df lsb => Sys2Proof.Machine.execReservedPushPullBit2 df lsb s
  | .reservedPushPullBit3 df lsb => Sys2Proof.Machine.execReservedPushPullBit3 df lsb s
  | .reservedPushPullBit4 df lsb => Sys2Proof.Machine.execReservedPushPullBit4 df lsb s
  | .reservedMovDestination3 df lsb => Sys2Proof.Machine.execReservedMovDestination3 df lsb s
  | .reservedMovOp3 df lsb => Sys2Proof.Machine.execReservedMovOp3 df lsb s
  | .reservedMovSource4 df lsb => Sys2Proof.Machine.execReservedMovSource4 df lsb s
  | .reservedIrqBit7 df lsb => Sys2Proof.Machine.execReservedIrqBit7 df lsb s
  | .reservedIrqIndexBit3 df lsb => Sys2Proof.Machine.execReservedIrqIndexBit3 df lsb s
  | .reservedIrqIndexBits4And2 df lsb => Sys2Proof.Machine.execReservedIrqIndexBits4And2 df lsb s
  | .reservedSetDestination3 df lsb => Sys2Proof.Machine.execReservedSetDestination3 df lsb s
  | .reservedSetDestination5 df lsb => Sys2Proof.Machine.execReservedSetDestination5 df lsb s
  | .reservedSetDestinations6And7 df lsb => Sys2Proof.Machine.execReservedSetDestinations6And7 df lsb s

end Sys2Proof.Machine
end

