-- ==== Sys2Proof/Machine/HostOps.lean ====
section
/-! DEFINITION. The host operations on one SM (49_engine.md R310 to R320, R323) and the packed configuration
registers (10_state.md R40 to R45). Each answers the SM as it leaves it and what its caller gets. -/

namespace Sys2Proof.Machine

/-! ### Packing (R41 to R45) -/

/-- R41: 0 = GPIO_LEVELS, 1 = PINDIRS. -/
def SideTarget.toBit : SideTarget → BitVec 1
  | .gpioLevels => 0
  | .pindirs => 1

/-- R41. -/
def SideTarget.ofBit (b : Bool) : SideTarget := if b then .pindirs else .gpioLevels

/-- R42: 0 = LEFT, 1 = RIGHT. -/
def ShiftDir.toBit : ShiftDir → BitVec 1
  | .left => 0
  | .right => 1

/-- R42. -/
def ShiftDir.ofBit (b : Bool) : ShiftDir := if b then .right else .left

/-- R41, R45: the word of EXECCTRL, bit 31 first; unused bits are 0. -/
def ExecCtrl.pack (c : ExecCtrl) : Word :=
  0#1 ++ BitVec.ofBool c.sideEn ++ c.sidePindir.toBit ++ c.jmpPin ++ 0#7 ++ c.wrapTop ++ c.wrapBottom
    ++ 0#2 ++ BitVec.ofBool c.statusSel ++ c.statusN

/-- R41, R45: the fields of a word of EXECCTRL; unused bits are ignored. -/
def ExecCtrl.unpack (x : Word) : ExecCtrl :=
  { sideEn := x.getLsbD 30
    sidePindir := .ofBit (x.getLsbD 29)
    jmpPin := x.extractLsb' 24 5
    wrapTop := x.extractLsb' 12 5
    wrapBottom := x.extractLsb' 7 5
    statusSel := x.getLsbD 4
    statusN := x.extractLsb' 0 4 }

/-- R42, R45: the word of SHIFTCTRL. -/
def ShiftCtrl.pack (c : ShiftCtrl) : Word :=
  BitVec.ofBool c.joinRx ++ BitVec.ofBool c.joinTx ++ c.pullThresh ++ c.pushThresh ++ c.outShiftdir.toBit
    ++ c.inShiftdir.toBit ++ BitVec.ofBool c.autopull ++ BitVec.ofBool c.autopush ++ 0#16

/-- R42, R45: the fields of a word of SHIFTCTRL. -/
def ShiftCtrl.unpack (x : Word) : ShiftCtrl :=
  { joinRx := x.getLsbD 31
    joinTx := x.getLsbD 30
    pullThresh := x.extractLsb' 25 5
    pushThresh := x.extractLsb' 20 5
    outShiftdir := .ofBit (x.getLsbD 19)
    inShiftdir := .ofBit (x.getLsbD 18)
    autopull := x.getLsbD 17
    autopush := x.getLsbD 16 }

/-- R43, R45: the word of PINCTRL. -/
def PinCtrl.pack (c : PinCtrl) : Word :=
  c.sidesetCount ++ c.setCount ++ c.outCount ++ c.inBase ++ c.sidesetBase ++ c.setBase ++ c.outBase

/-- R43, R45: the fields of a word of PINCTRL. -/
def PinCtrl.unpack (x : Word) : PinCtrl :=
  { sidesetCount := x.extractLsb' 29 3
    setCount := x.extractLsb' 26 3
    outCount := x.extractLsb' 20 6
    inBase := x.extractLsb' 15 5
    sidesetBase := x.extractLsb' 10 5
    setBase := x.extractLsb' 5 5
    outBase := x.extractLsb' 0 5 }

/-! ### Validation (R44, R319) -/

/-- R319: the largest accepted value of a numeric field. -/
def NumField.max : NumField → Nat
  | .jmpPin => 31
  | .wrapTop => 31
  | .wrapBottom => 31
  | .statusN => 15
  | .pullThresh => 31
  | .pushThresh => 31
  | .sidesetCount => 5
  | .setCount => 5
  | .outCount => 31
  | .inBase => 31
  | .sidesetBase => 31
  | .setBase => 31
  | .outBase => 31

/-- Store a value in a numeric field. -/
def SM.storeNum (m : SM) (f : NumField) (v : Nat) : SM :=
  match f with
  | .jmpPin => { m with execctrl := { m.execctrl with jmpPin := BitVec.ofNat 5 v } }
  | .wrapTop => { m with execctrl := { m.execctrl with wrapTop := BitVec.ofNat 5 v } }
  | .wrapBottom => { m with execctrl := { m.execctrl with wrapBottom := BitVec.ofNat 5 v } }
  | .statusN => { m with execctrl := { m.execctrl with statusN := BitVec.ofNat 4 v } }
  | .pullThresh => { m with shiftctrl := { m.shiftctrl with pullThresh := BitVec.ofNat 5 v } }
  | .pushThresh => { m with shiftctrl := { m.shiftctrl with pushThresh := BitVec.ofNat 5 v } }
  | .sidesetCount => { m with pinctrl := { m.pinctrl with sidesetCount := BitVec.ofNat 3 v } }
  | .setCount => { m with pinctrl := { m.pinctrl with setCount := BitVec.ofNat 3 v } }
  | .outCount => { m with pinctrl := { m.pinctrl with outCount := BitVec.ofNat 6 v } }
  | .inBase => { m with pinctrl := { m.pinctrl with inBase := BitVec.ofNat 5 v } }
  | .sidesetBase => { m with pinctrl := { m.pinctrl with sidesetBase := BitVec.ofNat 5 v } }
  | .setBase => { m with pinctrl := { m.pinctrl with setBase := BitVec.ofNat 5 v } }
  | .outBase => { m with pinctrl := { m.pinctrl with outBase := BitVec.ofNat 5 v } }

/-- What a numeric field holds. -/
def SM.readNum (m : SM) (f : NumField) : Nat :=
  match f with
  | .jmpPin => m.execctrl.jmpPin.toNat
  | .wrapTop => m.execctrl.wrapTop.toNat
  | .wrapBottom => m.execctrl.wrapBottom.toNat
  | .statusN => m.execctrl.statusN.toNat
  | .pullThresh => m.shiftctrl.pullThresh.toNat
  | .pushThresh => m.shiftctrl.pushThresh.toNat
  | .sidesetCount => m.pinctrl.sidesetCount.toNat
  | .setCount => m.pinctrl.setCount.toNat
  | .outCount => m.pinctrl.outCount.toNat
  | .inBase => m.pinctrl.inBase.toNat
  | .sidesetBase => m.pinctrl.sidesetBase.toNat
  | .setBase => m.pinctrl.setBase.toNat
  | .outBase => m.pinctrl.outBase.toNat

/-- R44: the fields of PINCTRL that hold an illegal value, with it, in the register's order. -/
def PinCtrl.illegal (c : PinCtrl) : List (NumField × Nat) :=
  [(NumField.sidesetCount, c.sidesetCount.toNat), (.setCount, c.setCount.toNat),
    (.outCount, c.outCount.toNat)].filter fun p => decide (p.1.max < p.2)

/-- R80: store the join flags; a change of either empties both FIFOs. -/
def SM.storeJoins (m : SM) (rx tx : Bool) : SM :=
  if m.shiftctrl.joinRx = rx ∧ m.shiftctrl.joinTx = tx then m
  else
    { m with shiftctrl := { m.shiftctrl with joinRx := rx, joinTx := tx }, txFifo := [], rxFifo := [] }

/-- An `InvalidArgument` to the caller, and no change (R341). -/
def refuseArgument (m : SM) (field : ArgField) (value : Nat) : SM × Reply :=
  (m, .failed (.invalidArgument field value))

/-- R44, R318: `setSHIFTCTRL(x)`. -/
def SM.setShiftctrl (m : SM) (x : Word) : SM × Reply :=
  let c := ShiftCtrl.unpack x
  if c.joinRx && c.joinTx then refuseArgument m .join x.toNat
  else ({ m.storeJoins c.joinRx c.joinTx with shiftctrl := c }, .done)

/-- R44, R318: `setPINCTRL(x)`. -/
def SM.setPinctrl (m : SM) (x : Word) : SM × Reply :=
  let c := PinCtrl.unpack x
  match c.illegal with
  | [] => ({ m with pinctrl := c }, .done)
  | (f, v) :: _ => refuseArgument m (.num f) v

/-- R319: a granular setter of a numeric field. -/
def SM.setNum (m : SM) (f : NumField) (v : Nat) : SM × Reply :=
  if v ≤ f.max then (m.storeNum f v, .done) else refuseArgument m (.num f) v

/-- R319, R80: a granular setter of a true/false field. -/
def SM.setFlagField (m : SM) (f : FlagField) (b : Bool) : SM × Reply :=
  match f with
  | .sideEn => ({ m with execctrl := { m.execctrl with sideEn := b } }, .done)
  | .statusSel => ({ m with execctrl := { m.execctrl with statusSel := b } }, .done)
  | .autopull => ({ m with shiftctrl := { m.shiftctrl with autopull := b } }, .done)
  | .autopush => ({ m with shiftctrl := { m.shiftctrl with autopush := b } }, .done)
  | .joinRx =>
    if b && m.shiftctrl.joinTx then refuseArgument m .join 1
    else (m.storeJoins b m.shiftctrl.joinTx, .done)
  | .joinTx =>
    if b && m.shiftctrl.joinRx then refuseArgument m .join 1
    else (m.storeJoins m.shiftctrl.joinRx b, .done)

/-! ### The operations -/

/-- R51, R312: `restart()`. -/
def SM.restart (m : SM) : SM :=
  { m with isrShiftCount := 0, osrShiftCount := 32, pc := 0, pendingDelay := 0,
           pendingInstruction := none, isr := 0, irqWait := none }

/-- R313: `setPC(v)`. -/
def SM.setPcOp (m : SM) (v : Nat) : SM × Reply :=
  if 31 < v then refuseArgument m .pc v else ({ m with pc := BitVec.ofNat 5 v }, .done)

/-- R316: `insertInstruction(word)`. -/
def SM.insertInstruction (m : SM) (word : InstrWord) : SM × Reply :=
  if m.pendingInstruction.isSome then
    (m, .failed (.internalInvariantViolation .secondPendingInstruction))
  else ({ m with pendingInstruction := some word }, .done)

/-- R81, R323: `hostTxWrite(w)`. -/
def SM.hostTxWrite (p : Params) (m : SM) (w : Word) : SM × Reply :=
  if m.txFifo.length < capTx p m.shiftctrl then ({ m with txFifo := m.txFifo ++ [w] }, .done)
  else (m, .refused)

/-- R81, R323: `hostRxRead()`. -/
def SM.hostRxRead (m : SM) : SM × Reply :=
  match m.rxFifo with
  | [] => (m, .refused)
  | w :: rest => ({ m with rxFifo := rest }, .word w)

/-- A host operation on one SM: the SM after it, and the reply. None checks a privilege or the enable (R310 to
R326). `setCLKDIV` changes no state of the SM (R320). -/
def SM.hostOp (p : Params) (m : SM) (op : HostOp) : SM × Reply :=
  match op with
  | .enable => ({ m with enabled := true }, .done)
  | .disable => ({ m with enabled := false }, .done)
  | .restart => (m.restart, .done)
  | .setPC v => m.setPcOp v
  | .setX v => ({ m with x := v }, .done)
  | .setY v => ({ m with y := v }, .done)
  | .setISRValue v => ({ m with isr := v }, .done)
  | .setOSRValue v => ({ m with osr := v }, .done)
  | .insertInstruction word => m.insertInstruction word
  | .getEXECCTRL => (m, .word m.execctrl.pack)
  | .getSHIFTCTRL => (m, .word m.shiftctrl.pack)
  | .getPINCTRL => (m, .word m.pinctrl.pack)
  | .setEXECCTRL x => ({ m with execctrl := .unpack x }, .done)
  | .setSHIFTCTRL x => m.setShiftctrl x
  | .setPINCTRL x => m.setPinctrl x
  | .setNum field v => m.setNum field v
  | .setFlag field v => m.setFlagField field v
  | .setSidePindir v => ({ m with execctrl := { m.execctrl with sidePindir := v } }, .done)
  | .setInShiftdir v => ({ m with shiftctrl := { m.shiftctrl with inShiftdir := v } }, .done)
  | .setOutShiftdir v => ({ m with shiftctrl := { m.shiftctrl with outShiftdir := v } }, .done)
  | .setCLKDIV _ => (m, .done)
  | .hostTxWrite w => m.hostTxWrite p w
  | .hostRxRead => m.hostRxRead

end Sys2Proof.Machine
end

