-- ==== Sys2Proof/Machine/Tick.lean ====
section
/-! DEFINITION. The tick of one SM (49_engine.md R291 to R293, R298) and the other transitions of R300. -/

namespace Sys2Proof.Machine

/-- The state with the current SM replaced. -/
def State.setCurSm (s : State) (m : SM) : State := s.setSm s.cur m

/-- R293: the word of this tick, from the injection slot if it is occupied, else `memory[PC]`. -/
def View.fetchWord (v : View) : Except Fault InstrWord :=
  match v.sm.pendingInstruction with
  | some w => .ok w
  | none => memoryGet v.shared.imem v.sm.pc.toNat

/-- R292 step 3: the slot is empty after the fetch. -/
def State.emptySlot (s : State) : State :=
  s.setCurSm { s.sm s.cur with pendingInstruction := none }

/-- R292 step 1: the SM acts on this edge. -/
def SM.running (m : SM) : Bool := m.enabled && m.clockEnabled && m.fault.isNone

/-- R292 steps 3 to 8. -/
def State.fetchAndExec (s : State) : Host.Outcome State Fault Refusal :=
  match s.view.fetchWord with
  | .error e => .fault e
  | .ok w => exec (decodeWord w) s.emptySlot

/-- R292: one tick of the current SM. -/
def tick (s : State) : Host.Outcome State Fault Refusal :=
  let m := s.sm s.cur
  if !m.running then .next s
  else if 0 < m.pendingDelay then .next (s.setCurSm { m with pendingDelay := m.pendingDelay - 1 })
  else s.fetchAndExec

/-- R317: a rising edge of the clock of SM `n`; which SM is current is the same after it (log 3). -/
def edge (n : Fin 4) (s : State) : Host.Outcome State Fault Refusal :=
  match tick { s with cur := n } with
  | .next t => .next { t with cur := s.cur }
  | .fault f => .fault f
  | .refused r => .refused r

/-- R301: the edges of one block tick, in the order `SM_ORDER`. -/
def blockEdges (p : Params) (edges : BitVec 4) : List Event :=
  (p.smOrder.toList.filter fun n => edges.getLsbD n.val).map Event.edge

/-- R321: the 32 words. -/
def memoryDump (m : Memory) : List InstrWord :=
  (List.range 32).map fun a => readByte m (2 * a + 1) ++ readByte m (2 * a)

/-- A host operation on SM `n`. -/
def State.host (s : State) (n : Fin 4) (op : HostOp) : State :=
  { s.setSm n ((s.sm n).hostOp s.params op).1 with reply := some ((s.sm n).hostOp s.params op).2 }

/-- The state with the shared part replaced and a reply to the caller. -/
def State.replying (s : State) (sh : Shared) (r : Reply) : State :=
  { s with shared := sh, reply := some r }

/-- One transition of R300. -/
def applyEvent (e : Event) (s : State) : Host.Outcome State Fault Refusal :=
  match e with
  | .edge n => edge n s
  | .blockTick edges => .next { s with events := blockEdges s.params edges ++ s.events }
  | .host n op => .next (s.host n op)
  | .setClockEnabled n v => .next (s.setSm n { s.sm n with clockEnabled := v })
  | .memorySet addr word =>
    .next (s.replying { s.shared with imem := Sys2Proof.Machine.memorySet s.shared.imem addr word } .done)
  | .dumpMemory => .next (s.replying s.shared (.dump (memoryDump s.shared.imem)))
  | .irqGet i => .next (s.replying s.shared (.level (Sys2Proof.Machine.irqGet s.shared.irq i)))
  | .irqSet i => .next (s.replying (s.shared.irqSet i) .done)
  | .irqClear i => .next (s.replying (s.shared.irqClear i) .done)
  | .setPinIn v => .next { s with shared := { s.shared with pinIn := v } }
  | .readPinLevel => .next (s.replying s.shared (.word s.shared.pinLevel))
  | .readPinDir => .next (s.replying s.shared (.word s.shared.pinDir))
  | .gpioSetPins data base count => .next (s.replying (s.shared.setPins data base count) .done)
  | .gpioSetPinDirs data base count => .next (s.replying (s.shared.setPinDirs data base count) .done)

end Sys2Proof.Machine
end

