-- ==== Sys2Proof/Machine/Step.lean ====
section
/-! DEFINITION. One step of the machine: the next transition of R300. -/

namespace Sys2Proof.Machine

/-- The next listed transition; with none listed, a rising edge for the current SM (log 2, log 3). -/
def step (s : State) : Host.Outcome State Fault Refusal :=
  match s.events with
  | [] => tick s
  | e :: rest => applyEvent e { s with events := rest }

/-- The state in which the very next step fetches and runs the word `w`: the word stands at the PC of the
current SM, that SM is enabled with its clock gate open, no fault, delay or injected word stands in the way, and
an edge for it comes next (log 1). -/
def State.withFetchWord (s : State) (_nbits w : Nat) : State :=
  let m := s.sm s.cur
  { s.setSm s.cur { m with enabled := true, clockEnabled := true, fault := none, pendingDelay := 0,
                           pendingInstruction := none } with
    shared := { s.shared with imem := memorySet s.shared.imem m.pc (BitVec.ofNat 16 w) }
    events := match s.events with
      | [] => []
      | e :: rest => .edge s.cur :: e :: rest }

end Sys2Proof.Machine
end

