-- ==== Sys2Proof/Safety.lean ====
section
/-! DEFINITION. What a legal state is (10_state.md R35), which states construction may leave (R50), what a safe
run is, and the relations in which the statements say what an instruction does. The relations are written from
the spec bit by bit, not from the operations of Machine/. -/

namespace Sys2Proof.Machine

/-! ### Legal states -/

/-- R35 items 1 to 3, R29, R77, R78, R80 and R343 for one SM: both counters at most 32, the delay at most 31, the
counts of PINCTRL in range, not both join flags, no FIFO over its capacity, and only a decode error recorded. -/
abbrev SM.Legal (p : Params) (m : SM) : Prop :=
  m.isrShiftCount ≤ 32 ∧ m.osrShiftCount ≤ 32 ∧ m.pendingDelay ≤ 31 ∧
  m.pinctrl.sidesetCount.toNat ≤ 5 ∧ m.pinctrl.setCount.toNat ≤ 5 ∧ m.pinctrl.outCount.toNat ≤ 31 ∧
  (m.shiftctrl.joinRx && m.shiftctrl.joinTx) = false ∧
  m.txFifo.length ≤ capTx p m.shiftctrl ∧ m.rxFifo.length ≤ capRx p m.shiftctrl ∧
  (match m.fault with
   | none => True
   | some (.decodeError _ _) => True
   | some (.invalidArgument _ _) => False
   | some (.internalInvariantViolation _) => False)

/-- The invariant of the machine: legal parameters (R5), every SM legal, the memory in its canonical form. -/
def State.Inv (s : State) : Prop :=
  s.params.Legal ∧ (∀ n : Fin 4, (s.sm n).Legal s.params) ∧ s.shared.imem.wf

/-- What R50 states of one SM after construction, every value it leaves unspecified left open. -/
def SM.Constructed (m : SM) : Prop :=
  m.isrShiftCount = 0 ∧ m.osrShiftCount = 32 ∧ m.pc = 0 ∧ m.pendingDelay = 0 ∧
  m.pendingInstruction = none ∧ m.irqWait = none ∧ m.fault = none ∧ m.enabled = false ∧
  m.clockEnabled = true ∧ m.execctrl.wrapTop = 0x1F ∧ m.execctrl.wrapBottom = 0 ∧
  m.txFifo = [] ∧ m.rxFifo = [] ∧
  m.pinctrl.sidesetCount.toNat ≤ 5 ∧ m.pinctrl.setCount.toNat ≤ 5 ∧ m.pinctrl.outCount.toNat ≤ 31 ∧
  (m.shiftctrl.joinRx && m.shiftctrl.joinTx) = false

/-- What R50 states of the block after construction: X, Y, ISR, OSR, the other configuration fields, the memory
and the latches are open. -/
def State.Constructed (s : State) : Prop :=
  s.params.Legal ∧ (∀ n : Fin 4, (s.sm n).Constructed) ∧ s.shared.irq = 0 ∧ s.shared.imem.wf

/-- A safe run stays in legal states in which no SM has faulted. -/
def State.Safe (s : State) : Prop :=
  s.Inv ∧ ∀ n : Fin 4, (s.sm n).fault = none

/-! ### How the statements say what happens -/

/-- R156, R157: a threshold field's meaning. -/
def thresholdValue (t : BitVec 5) : Nat := if t.toNat = 0 then 32 else t.toNat

/-- R83: the level a read of pin `i` returns. -/
def State.pinRead (s : State) (i : Nat) : Bool :=
  if s.params.pinRead = .input then s.shared.pinIn.getLsbD i else s.shared.pinLevel.getLsbD i

/-- R86: bit `k` of `data` is at pin `(base + k) & 31` for every `k` below `count`, and every other pin is as it was. -/
def WindowWritten (before after : Word) (data : Nat → Bool) (base count : Nat) : Prop :=
  (∀ k < 32, k < count → after.getLsbD ((base + k) % 32) = data k) ∧
  (∀ i < 32, (∀ k < 32, k < count → (base + k) % 32 ≠ i) → after.getLsbD i = before.getLsbD i)

/-- R113: the word has a side-set under the configuration of `m`. -/
def SidePresent (m : SM) (df : BitVec 5) : Prop :=
  m.pinctrl.sidesetCount.toNat ≠ 0 ∧ (m.execctrl.sideEn = true → df.getLsbD 4 = true)

/-- R295: how many pins the side-set drives. -/
def sidePins (m : SM) : Nat :=
  if m.execctrl.sideEn then m.pinctrl.sidesetCount.toNat - 1 else m.pinctrl.sidesetCount.toNat

/-- R113, R295: the latches `lv'`, `dr'` are `lv`, `dr` after the side-set of `df` for a legal SIDESET_COUNT `c`:
bit `k` of the side-set is bit `5 − c + k` of `df`. -/
structure SideSetApplied (m : SM) (df : BitVec 5) (lv dr lv' dr' : Word) : Prop where
  absent : ¬ SidePresent m df → lv' = lv ∧ dr' = dr
  levels : SidePresent m df → m.pinctrl.sidesetCount.toNat ≤ 5 → m.execctrl.sidePindir = .gpioLevels →
    dr' = dr ∧ WindowWritten lv lv' (fun k => df.getLsbD (5 - m.pinctrl.sidesetCount.toNat + k))
      m.pinctrl.sidesetBase.toNat (sidePins m)
  dirs : SidePresent m df → m.pinctrl.sidesetCount.toNat ≤ 5 → m.execctrl.sidePindir = .pindirs →
    lv' = lv ∧ WindowWritten dr dr' (fun k => df.getLsbD (5 - m.pinctrl.sidesetCount.toNat + k))
      m.pinctrl.sidesetBase.toNat (sidePins m)

/-- R292 steps 6 to 8 and the frame: `t` is `s` after an instruction whose own effect left the current SM as `m`
and the shared part as `sh`, with result `r`. A COMPLETE moves the PC, with wrap; a COMPLETE or JUMP arms the delay,
the low `5 − c` bits of `df`; the side-set is driven whatever the result. Every byte of memory, the other SMs and
all else are as in `s`. -/
structure Retired (df : BitVec 5) (r : ResultState) (s : State) (m : SM) (sh : Shared) (t : State) : Prop where
  sm : t.sm s.cur =
    { m with
      pc := if r = .complete then
          (if m.pc = m.execctrl.wrapTop then m.execctrl.wrapBottom else m.pc + 1)
        else m.pc
      pendingDelay := if r = .stall then m.pendingDelay
        else df.toNat % 2 ^ (5 - m.pinctrl.sidesetCount.toNat) }
  others : ∀ n, n ≠ s.cur → t.sm n = s.sm n
  side : SideSetApplied m df sh.pinLevel sh.pinDir t.shared.pinLevel t.shared.pinDir
  irq : t.shared.irq = sh.irq
  pinIn : t.shared.pinIn = s.shared.pinIn
  bytes : ∀ a, readByte t.shared.imem a = readByte s.shared.imem a
  imem : t.shared.imem = s.shared.imem
  params : t.params = s.params
  cur : t.cur = s.cur
  events : t.events = s.events
  reply : t.reply = s.reply

/-- R85, R163, R212 to R217: bit `k` of an IN source. -/
def inBit (s : State) (src : InSrc) (k : Nat) : Bool :=
  match src with
  | .pins => s.pinRead (((s.sm s.cur).pinctrl.inBase.toNat + k) % 32)
  | .x => (s.sm s.cur).x.getLsbD k
  | .y => (s.sm s.cur).y.getLsbD k
  | .null => false
  | .isr => (s.sm s.cur).isr.getLsbD k
  | .osr => (s.sm s.cur).osr.getLsbD k

/-- R167, R252 to R258: bit `k` of a MOV source. -/
def movBit (s : State) (src : MovSrc) (k : Nat) : Bool :=
  match src with
  | .pins => s.pinRead (((s.sm s.cur).pinctrl.inBase.toNat + k) % 32)
  | .x => (s.sm s.cur).x.getLsbD k
  | .y => (s.sm s.cur).y.getLsbD k
  | .null => false
  | .status =>
    decide ((if (s.sm s.cur).execctrl.statusSel then (s.sm s.cur).rxFifo.length
      else (s.sm s.cur).txFifo.length) < (s.sm s.cur).execctrl.statusN.toNat)
  | .isr => (s.sm s.cur).isr.getLsbD k
  | .osr => (s.sm s.cur).osr.getLsbD k

/-- R166, R259: bit `k` of the value a MOV writes. -/
def movResultBit (s : State) (op : MovOp) (src : MovSrc) (k : Nat) : Bool :=
  match op with
  | .none => movBit s src k
  | .invert => !movBit s src k
  | .reverse => movBit s src (31 - k)

/-- The 32 bits of `w` are given by `f`. -/
def BitsAre (w : Word) (f : Nat → Bool) : Prop := ∀ k < 32, w.getLsbD k = f k

/-- R152, R153: bit `i` of the ISR after `n` bits of `data` entered it. -/
def isrBitAfter (dir : ShiftDir) (isr : Word) (data : Nat → Bool) (n i : Nat) : Bool :=
  match dir with
  | .left => if i < n then data i else isr.getLsbD (i - n)
  | .right => if i < 32 - n then isr.getLsbD (i + n) else data (i - (32 - n))

/-- R154, R155: bit `k` of the `n` bits that leave the OSR; bits at `n` and above are 0. -/
def outBit (dir : ShiftDir) (osr : Word) (n k : Nat) : Bool :=
  decide (k < n) && (match dir with
    | .left => osr.getLsbD (32 - n + k)
    | .right => osr.getLsbD k)

/-- R154, R155: bit `i` of the OSR after `n` bits left it. -/
def osrBitAfter (dir : ShiftDir) (osr : Word) (n i : Nat) : Bool :=
  match dir with
  | .left => if i < n then false else osr.getLsbD (i - n)
  | .right => osr.getLsbD (i + n)

/-- R165: the flag number of an index on SM `num`, as a number. -/
def flagNumber (num : Fin 4) : IrqIndex → Nat
  | .abs flag => flag.toNat
  | .rel offset => (num.val + offset.toNat) % 4

/-- R89, R90: the flags are as before, but flag `n` is `level`. -/
def FlagMade (before after : BitVec 8) (n : Nat) (level : Bool) : Prop :=
  ∀ i < 8, after.getLsbD i = if i = n then level else before.getLsbD i

/-- R180: the next state of a JMP `i` whose condition holds or not (`taken`) and whose condition left the SM as `m`. -/
def Jumps (i : Instr) (s : State) (taken : Bool) (m : SM) (address : Index) : Prop :=
  ∃ t, exec i s = .next t ∧
    Retired i.df (if taken then .jump else .complete) s
      { m with pc := if taken then address else m.pc, irqWait := none } s.shared t

/-- R158: a push asked for with `ifFull` is to be done: the ISR counts as full and AUTOPUSH is on, or no such
condition was asked for. -/
def SM.pushWanted (m : SM) (ifFull : Bool) : Bool :=
  !ifFull || (m.shiftctrl.autopush && decide (thresholdValue m.shiftctrl.pushThresh ≤ m.isrShiftCount))

/-- R160: a pull asked for with `ifEmpty` is to be done. -/
def SM.pullWanted (m : SM) (ifEmpty : Bool) : Bool :=
  !ifEmpty || (m.shiftctrl.autopull && decide (thresholdValue m.shiftctrl.pullThresh ≤ m.osrShiftCount))

/-- R158 step 4: the SM after its whole ISR went to the tail of the RX FIFO. -/
def SM.afterPush (m : SM) : SM :=
  { m with rxFifo := m.rxFifo ++ [m.isr], isr := 0, isrShiftCount := 0 }

/-- R160 step 4, R161: the SM after a pull that is done: the head of the TX FIFO, or X when there is none. -/
def SM.afterPull (m : SM) : SM :=
  match m.txFifo with
  | [] => { m with osr := m.x, osrShiftCount := 0 }
  | w :: rest => { m with osr := w, osrShiftCount := 0, txFifo := rest }

/-- R221: the SM after the autopull of an OUT: a blocking pull with `ifEmpty`, which does nothing from an empty TX
FIFO. -/
def SM.afterAutopull (m : SM) : SM :=
  if m.pullWanted true && !m.txFifo.isEmpty then m.afterPull else m

/-- R222 to R229: what the delivery of `data`, of `n` bits, by an OUT does to the SM. -/
def SM.outDelivered (p : Params) (m : SM) (dst : OutDst) (data : Word) (n : Nat) : SM :=
  match dst with
  | .pins => m
  | .x => { m with x := data }
  | .y => { m with y := data }
  | .null => m
  | .pindirs => m
  | .pc => { m with pc := BitVec.ofNat 5 data.toNat }
  | .isr => { m with isr := data, isrShiftCount := if p.srCountPolicy = .keep then m.isrShiftCount else n }
  | .exec => { m with pendingInstruction := some (BitVec.ofNat 16 data.toNat) }

/-- R164, R222, R228: what the delivery of `data` by an OUT does to the latches. -/
def OutPins (m : SM) (dst : OutDst) (data : Word) (sh sh' : Shared) : Prop :=
  match dst with
  | .pins => sh' = { sh with pinLevel := sh'.pinLevel } ∧ WindowWritten sh.pinLevel sh'.pinLevel data.getLsbD
      m.pinctrl.outBase.toNat m.pinctrl.outCount.toNat
  | .pindirs => sh' = { sh with pinDir := sh'.pinDir } ∧ WindowWritten sh.pinDir sh'.pinDir data.getLsbD
      m.pinctrl.outBase.toNat m.pinctrl.outCount.toNat
  | .x | .y | .null | .pc | .isr | .exec => sh' = sh

/-- R164, R281, R284: what a SET does to the latches. -/
def SetPinsWritten (m : SM) (dst : SetDst) (data : BitVec 5) (sh sh' : Shared) : Prop :=
  match dst with
  | .pins => sh' = { sh with pinLevel := sh'.pinLevel } ∧ WindowWritten sh.pinLevel sh'.pinLevel data.getLsbD
      m.pinctrl.setBase.toNat m.pinctrl.setCount.toNat
  | .pindirs => sh' = { sh with pinDir := sh'.pinDir } ∧ WindowWritten sh.pinDir sh'.pinDir data.getLsbD
      m.pinctrl.setBase.toNat m.pinctrl.setCount.toNat
  | .x | .y => sh' = sh

/-- The shared part differs at most in flag `n`, which is `level`. -/
def OnlyFlagMade (sh sh' : Shared) (n : Nat) (level : Bool) : Prop :=
  sh' = { sh with irq := sh'.irq } ∧ FlagMade sh.irq sh'.irq n level

/-- R296: the address after `pc` for a COMPLETE. -/
def SM.successor (m : SM) : Index :=
  if m.pc = m.execctrl.wrapTop then m.execctrl.wrapBottom else m.pc + 1

/-- R292 steps 1 to 3: the next tick of the SM fetches. -/
structure SM.Fetches (m : SM) : Prop where
  enabled : m.enabled = true
  clockEnabled : m.clockEnabled = true
  fault : m.fault = none
  delay : m.pendingDelay = 0

/-- The two bytes at the PC of `m` decode to `i` (R71, R72). -/
def State.CodeAt (s : State) (m : SM) (i : Instr) : Prop :=
  decode [readByte s.shared.imem (2 * m.pc.toNat), readByte s.shared.imem (2 * m.pc.toNat + 1)] = .ok (i, [])

/-- R229, R264: OUT EXEC and MOV EXEC, the instructions that fill the injection slot. -/
def fillsSlot : Form → Bool
  | .output .exec _ => true
  | .mov .exec _ _ => true
  | .output _ _ | .mov _ _ _ | .jmp _ _ | .wait _ _ | .input _ _ | .push _ _ | .pull _ _ | .irqSet _ | .irqWait _
  | .irqClear _ _ | .set _ _ | .reserved _ _ => false

/-- R319: the fields of the configuration that have no numeric setter. -/
def SM.choices (m : SM) : List Bool × SideTarget × ShiftDir × ShiftDir :=
  ([m.execctrl.sideEn, m.execctrl.statusSel, m.shiftctrl.joinRx, m.shiftctrl.joinTx, m.shiftctrl.autopull,
    m.shiftctrl.autopush], m.execctrl.sidePindir, m.shiftctrl.inShiftdir, m.shiftctrl.outShiftdir)

/-- R41: the fields of EXECCTRL are those of the word `w` at their bit positions. -/
structure ExecFields (c : ExecCtrl) (w : Word) : Prop where
  sideEn : c.sideEn = w.getLsbD 30
  sidePindir : c.sidePindir = if w.getLsbD 29 then .pindirs else .gpioLevels
  jmpPin : c.jmpPin.toNat = w.toNat / 2 ^ 24 % 32
  wrapTop : c.wrapTop.toNat = w.toNat / 2 ^ 12 % 32
  wrapBottom : c.wrapBottom.toNat = w.toNat / 2 ^ 7 % 32
  statusSel : c.statusSel = w.getLsbD 4
  statusN : c.statusN.toNat = w.toNat % 16

/-- R42: the fields of SHIFTCTRL are those of the word `w` at their bit positions. -/
structure ShiftFields (c : ShiftCtrl) (w : Word) : Prop where
  joinRx : c.joinRx = w.getLsbD 31
  joinTx : c.joinTx = w.getLsbD 30
  pullThresh : c.pullThresh.toNat = w.toNat / 2 ^ 25 % 32
  pushThresh : c.pushThresh.toNat = w.toNat / 2 ^ 20 % 32
  outShiftdir : c.outShiftdir = if w.getLsbD 19 then .right else .left
  inShiftdir : c.inShiftdir = if w.getLsbD 18 then .right else .left
  autopull : c.autopull = w.getLsbD 17
  autopush : c.autopush = w.getLsbD 16

/-- R43: the fields of PINCTRL are those of the word `w` at their bit positions. -/
structure PinFields (c : PinCtrl) (w : Word) : Prop where
  sidesetCount : c.sidesetCount.toNat = w.toNat / 2 ^ 29
  setCount : c.setCount.toNat = w.toNat / 2 ^ 26 % 8
  outCount : c.outCount.toNat = w.toNat / 2 ^ 20 % 64
  inBase : c.inBase.toNat = w.toNat / 2 ^ 15 % 32
  sidesetBase : c.sidesetBase.toNat = w.toNat / 2 ^ 10 % 32
  setBase : c.setBase.toNat = w.toNat / 2 ^ 5 % 32
  outBase : c.outBase.toNat = w.toNat % 32

/-- R290: what a tick of SM `n` depends on is the same in both states: its number, its state, what the SMs share and
the parameters. -/
structure SameForSm (n : Fin 4) (s s' : State) : Prop where
  sm : s.sm n = s'.sm n
  shared : s.shared = s'.shared
  params : s.params = s'.params

end Sys2Proof.Machine
end

