-- ==== Sys2Proof/Certificates/Slice0/Obligations.lean ====
section
/-! DEFINITION. The statements for the provers, in the order of OBLIGATIONS.json. Where one speaks of the side-set (through
`Retired`), its width and its place after the primary effect are the spec's own decisions D2 to D4 (log 9). -/

open Sys2Proof Sys2Proof.Machine

/-! ### Encoding -/

/-- Words the spec's rules give as examples decode to the instructions they name. -/
def Obligations.ExampleWordsDecode : Prop :=
  decodeWord 0x0005 = .jmp 0 5 ∧ decodeWord 0x0045 = .jmpXDec 0 5 ∧ decodeWord 0x00E0 = .jmpNotOsre 0 0 ∧
  decodeWord 0x2085 = .waitGpio 0 true 5 ∧ decodeWord 0x2022 = .waitPin 0 false 2 ∧
  decodeWord 0x20D1 = .waitIrqRel 0 true 1 ∧
  decodeWord 0x4044 = .inY 0 4 ∧ decodeWord 0x4020 = .inX 0 32 ∧ decodeWord 0x40F0 = .inOsr 0 16 ∧
  decodeWord 0x60E0 = .outExec 0 32 ∧ decodeWord 0x60A5 = .outPc 0 5 ∧ decodeWord 0x6084 = .outPindirs 0 4 ∧
  decodeWord 0x8020 = .push 0 false true ∧ decodeWord 0x80C0 = .pull 0 true false ∧
  decodeWord 0xA0E9 = .movOsrInvX 0 ∧ decodeWord 0xA031 = .movXRevX 0 ∧ decodeWord 0xA025 = .movXStatus 0 ∧
  decodeWord 0xC021 = .irqWait 0 1 ∧ decodeWord 0xC065 = .irqClear 0 true 5 ∧ decodeWord 0xC010 = .irqSetRel 0 0 ∧
  decodeWord 0xE321 = .setX 3 1 ∧ decodeWord 0xE081 = .setPindirs 0 1 ∧
  decodeWord 0x2060 = .reservedWaitSource3 0 0x60 ∧ decodeWord 0x8001 = .reservedPushPullBit0 0 0x01 ∧
  decodeWord 0xC008 = .reservedIrqIndexBit3 0 0x08

/-- Decoding the two bytes of an encoded well-formed instruction gives it back, and the bytes that follow. -/
def Obligations.DecodeAfterEncode : Prop :=
  ∀ (i : Instr) (rest : List Byte), i.WellFormed → decode (bytesOfWord (encode i) ++ rest) = .ok (i, rest)

/-- Every 16-bit word decodes to a well-formed instruction whose encoding is that word. -/
def Obligations.EncodeAfterDecode : Prop :=
  ∀ w : InstrWord, (decodeWord w).WellFormed ∧ encode (decodeWord w) = w

/-- R128: a word is reserved exactly when the table of R128 says so. -/
def Obligations.ReservedWordsAreTheListedOnes : Prop :=
  ∀ w : InstrWord, legalWord w = false ↔
    let opcode := w.toNat / 2 ^ 13
    let code := w.toNat / 2 ^ 5 % 8
    let index := w.toNat % 32
    let badIndex := index / 8 % 2 = 1 ∨ (index / 16 % 2 = 1 ∧ index / 4 % 2 = 1)
    (opcode = 1 ∧ (code % 4 = 3 ∨ (code % 4 = 2 ∧ badIndex))) ∨
    (opcode = 2 ∧ (code = 4 ∨ code = 5)) ∨
    (opcode = 4 ∧ index ≠ 0) ∨
    (opcode = 5 ∧ (code = 3 ∨ w.toNat / 2 ^ 3 % 4 = 3 ∨ w.toNat % 8 = 4)) ∨
    (opcode = 6 ∧ (4 ≤ code ∨ badIndex)) ∨
    (opcode = 7 ∧ (code = 3 ∨ 5 ≤ code))

/-- R112: the number of legal low bytes of each class, under every `df`. -/
def Obligations.LegalWordsPerClass : Prop :=
  ∀ df : BitVec 5,
    let legal := fun opcode : BitVec 3 =>
      ((List.range 256).filter fun lsb => legalWord (opcode ++ df ++ BitVec.ofNat 8 lsb)).length
    legal 0b000 = 256 ∧ legal 0b001 = 152 ∧ legal 0b010 = 192 ∧ legal 0b011 = 256 ∧
    legal 0b100 = 8 ∧ legal 0b101 = 147 ∧ legal 0b110 = 48 ∧ legal 0b111 = 128

/-! ### Primitives -/

/-- R165: the flag number of every index that passes the check of R127. -/
def Obligations.IrqNumberOfLegalIndex : Prop :=
  ∀ (num : Fin 4) (index : BitVec 5),
    index.getLsbD 3 = false → ¬ (index.getLsbD 4 = true ∧ index.getLsbD 2 = true) →
    (irqNum num (assembleIrqIndex index)).toNat =
      if index.getLsbD 4 then (num.val + index.toNat) % 4 else index.toNat % 8

/-- R166: bit-reverse and invert, as numbers and bit by bit. -/
def Obligations.BitReverseAndInvert : Prop :=
  ∀ v : Word,
    (∀ k < 32, (bitReverse32 v).getLsbD k = v.getLsbD (31 - k)) ∧
    bitReverse32 (bitReverse32 v) = v ∧
    (invert32 v).toNat = 2 ^ 32 - 1 - v.toNat

/-- R152 to R155: the four shifts as arithmetic on numbers, with their counters. Nothing else of the SM or of what it
shares changes. -/
def Obligations.ShiftsAsArithmetic : Prop :=
  ∀ (v : View) (data : Word) (n : Nat), 1 ≤ n → n ≤ 32 →
    (∃ isr, v.shiftIntoIsr data n = .ok (v.setIsr isr (min (v.sm.isrShiftCount + n) 32)) ∧
      (v.sm.shiftctrl.inShiftdir = .left →
        isr.toNat = (v.sm.isr.toNat * 2 ^ n + data.toNat % 2 ^ n) % 2 ^ 32) ∧
      (v.sm.shiftctrl.inShiftdir = .right →
        isr.toNat = v.sm.isr.toNat / 2 ^ n + (data.toNat % 2 ^ n) * 2 ^ (32 - n))) ∧
    (∃ out osr, v.shiftOutOfOsr n = .ok (out, v.setOsr osr (min (v.sm.osrShiftCount + n) 32)) ∧
      (v.sm.shiftctrl.outShiftdir = .left →
        out.toNat = v.sm.osr.toNat / 2 ^ (32 - n) ∧ osr.toNat = v.sm.osr.toNat * 2 ^ n % 2 ^ 32) ∧
      (v.sm.shiftctrl.outShiftdir = .right →
        out.toNat = v.sm.osr.toNat % 2 ^ n ∧ osr.toNat = v.sm.osr.toNat / 2 ^ n))

/-- R85 to R87: a read and a write of a window of pins. That a window wraps from pin 31 to pin 0 is the spec's own
decision D5 (log 9). -/
def Obligations.PinWindows : Prop :=
  ∀ (v : View) (data pins : Word) (base : Index) (count : Nat), count ≤ 32 →
    (∀ k < 32, (getPins pins base count).getLsbD k =
      (decide (k < count) && pins.getLsbD ((base.toNat + k) % 32))) ∧
    WindowWritten v.shared.pinLevel (v.setPins data base count).shared.pinLevel data.getLsbD base.toNat count ∧
    v.setPins data base count =
      { v with shared := { v.shared with pinLevel := (v.setPins data base count).shared.pinLevel } } ∧
    WindowWritten v.shared.pinDir (v.setPinDirs data base count).shared.pinDir data.getLsbD base.toNat count ∧
    v.setPinDirs data base count =
      { v with shared := { v.shared with pinDir := (v.setPinDirs data base count).shared.pinDir } }

/-- R158, R160, R161: whether a push or a pull makes its caller stall, and the SM after it. -/
def Obligations.PushAndPullPrimitives : Prop :=
  ∀ (v : View) (cond block : Bool),
    (v.rxPush cond block =
      if v.sm.pushWanted cond = false then (false, v)
      else if v.sm.rxFifo.length = capRx v.params v.sm.shiftctrl then (block, v)
      else (false, { v with sm := v.sm.afterPush })) ∧
    (v.txPull cond block =
      if v.sm.pullWanted cond = false then (false, v)
      else if v.sm.txFifo = [] then (block, if block then v else { v with sm := v.sm.afterPull })
      else (false, { v with sm := v.sm.afterPull }))

/-! ### The instructions -/

/-- R180 to R188: every JMP completes or jumps, and what is left. The polarity of JMP PIN and the reading of `!` are the
spec's decision D8 (log 9). -/
def Obligations.JmpCompletesOrJumps : Prop :=
  ∀ (df : BitVec 5) (address : Index) (s : State),
    let m := s.sm s.cur
    Jumps (.jmp df address) s true m address ∧
    Jumps (.jmpNotX df address) s (decide (m.x.toNat = 0)) m address ∧
    Jumps (.jmpXDec df address) s (decide (m.x.toNat ≠ 0)) { m with x := m.x - 1 } address ∧
    Jumps (.jmpNotY df address) s (decide (m.y.toNat = 0)) m address ∧
    Jumps (.jmpYDec df address) s (decide (m.y.toNat ≠ 0)) { m with y := m.y - 1 } address ∧
    Jumps (.jmpXNeY df address) s (decide (m.x.toNat ≠ m.y.toNat)) m address ∧
    Jumps (.jmpPin df address) s (s.pinRead m.execctrl.jmpPin.toNat) m address ∧
    Jumps (.jmpNotOsre df address) s
      (decide (m.osrShiftCount < thresholdValue m.shiftctrl.pullThresh)) m address

/-- R200 to R203: a WAIT whose sample agrees with its polarity completes; a wait for a HIGH flag clears it. The pin
numbers of GPIO and PIN are the spec's decision D6 (log 9). -/
def Obligations.WaitCompletesWhenSampleAgrees : Prop :=
  ∀ (df : BitVec 5) (polarity : Bool) (s : State),
    let m := s.sm s.cur
    let m' := { m with irqWait := none }
    (∀ index : Index, s.pinRead index.toNat = polarity →
      ∃ t, exec (.waitGpio df polarity index) s = .next t ∧ Retired df .complete s m' s.shared t) ∧
    (∀ index : Index, s.pinRead ((m.pinctrl.inBase.toNat + index.toNat) % 32) = polarity →
      ∃ t, exec (.waitPin df polarity index) s = .next t ∧ Retired df .complete s m' s.shared t) ∧
    (∀ index : BitVec 3, s.shared.irq.getLsbD (flagNumber s.cur (.abs index)) = polarity →
      ∃ t sh, exec (.waitIrq df polarity index) s = .next t ∧ Retired df .complete s m' sh t ∧
        OnlyFlagMade s.shared sh (flagNumber s.cur (.abs index)) false) ∧
    (∀ index : BitVec 2, s.shared.irq.getLsbD (flagNumber s.cur (.rel index)) = polarity →
      ∃ t sh, exec (.waitIrqRel df polarity index) s = .next t ∧ Retired df .complete s m' sh t ∧
        OnlyFlagMade s.shared sh (flagNumber s.cur (.rel index)) false)

/-- R200: a WAIT whose sample differs from its polarity stalls and changes nothing but the IRQ latch and what its
side-set drives. -/
def Obligations.WaitStallsWhenSampleDiffers : Prop :=
  ∀ (df : BitVec 5) (polarity : Bool) (s : State),
    let m := s.sm s.cur
    let m' := { m with irqWait := none }
    (∀ index : Index, s.pinRead index.toNat ≠ polarity →
      ∃ t, exec (.waitGpio df polarity index) s = .next t ∧ Retired df .stall s m' s.shared t) ∧
    (∀ index : Index, s.pinRead ((m.pinctrl.inBase.toNat + index.toNat) % 32) ≠ polarity →
      ∃ t, exec (.waitPin df polarity index) s = .next t ∧ Retired df .stall s m' s.shared t) ∧
    (∀ index : BitVec 3, s.shared.irq.getLsbD (flagNumber s.cur (.abs index)) ≠ polarity →
      ∃ t, exec (.waitIrq df polarity index) s = .next t ∧ Retired df .stall s m' s.shared t) ∧
    (∀ index : BitVec 2, s.shared.irq.getLsbD (flagNumber s.cur (.rel index)) ≠ polarity →
      ∃ t, exec (.waitIrqRel df polarity index) s = .next t ∧ Retired df .stall s m' s.shared t)

/-- R211 to R217: an IN (every instruction of form `.input`) whose autopush, if one is due, finds room: the shift, the
counter, the push. The pins of IN PINS are the spec's decision D7 (log 9). -/
def Obligations.InCompletes : Prop :=
  ∀ (i : Instr) (src : InSrc) (n : Nat) (s : State), i.form = .input src n → 1 ≤ n → n ≤ 32 →
    let m := s.sm s.cur
    ∃ isr, BitsAre isr (isrBitAfter m.shiftctrl.inShiftdir m.isr (inBit s src) n) ∧
      let m' := { m with isr := isr, isrShiftCount := min (m.isrShiftCount + n) 32, irqWait := none }
      ((m'.pushWanted true = true → m.rxFifo.length ≠ capRx s.params m.shiftctrl) →
        ∃ t, exec i s = .next t ∧
          Retired i.df .complete s (if m'.pushWanted true then m'.afterPush else m') s.shared t)

/-- R211, R219: an IN whose autopush finds the RX FIFO full stalls with its shift done. The pins of IN PINS are the
spec's decision D7 (log 9). -/
def Obligations.InStallsOnFullRxFifo : Prop :=
  ∀ (i : Instr) (src : InSrc) (n : Nat) (s : State), i.form = .input src n → 1 ≤ n → n ≤ 32 →
    let m := s.sm s.cur
    ∃ isr, BitsAre isr (isrBitAfter m.shiftctrl.inShiftdir m.isr (inBit s src) n) ∧
      let m' := { m with isr := isr, isrShiftCount := min (m.isrShiftCount + n) 32, irqWait := none }
      (m'.pushWanted true = true → m.rxFifo.length = capRx s.params m.shiftctrl →
        ∃ t, exec i s = .next t ∧ Retired i.df .stall s m' s.shared t)

/-- R221 to R225, R227, R228: an OUT to PINS, X, Y, NULL, PINDIRS or ISR whose autopull, if one is due, finds a word:
the shift, the counter, the delivery, the refill. That a window wraps is the spec's decision D5 (log 9), the counter
of OUT ISR its decision D10 (log 4). -/
def Obligations.OutCompletes : Prop :=
  ∀ (i : Instr) (dst : OutDst) (n : Nat) (s : State), i.form = .output dst n → 1 ≤ n → n ≤ 32 →
    dst ≠ .pc → dst ≠ .exec →
    let m := s.sm s.cur
    let count := min (m.osrShiftCount + n) 32
    ({ m with osrShiftCount := count }.pullWanted true = true → m.txFifo ≠ []) →
    ∃ t data osr sh, exec i s = .next t ∧
      BitsAre data (outBit m.shiftctrl.outShiftdir m.osr n) ∧
      BitsAre osr (osrBitAfter m.shiftctrl.outShiftdir m.osr n) ∧
      OutPins m dst data s.shared sh ∧
      Retired i.df .complete s
        ({ m with osr := osr, osrShiftCount := count, irqWait := none }.outDelivered s.params dst data n).afterAutopull
        sh t

/-- R221, R230: the same OUT stalls, with its shift and its delivery done, when a pull is due and the TX FIFO is
empty. That a window wraps is the spec's decision D5 (log 9), the counter of OUT ISR its decision D10 (log 4). -/
def Obligations.OutStallsOnEmptyTxFifo : Prop :=
  ∀ (i : Instr) (dst : OutDst) (n : Nat) (s : State), i.form = .output dst n → 1 ≤ n → n ≤ 32 →
    dst ≠ .pc → dst ≠ .exec →
    let m := s.sm s.cur
    let count := min (m.osrShiftCount + n) 32
    { m with osrShiftCount := count }.pullWanted true = true → m.txFifo = [] →
    ∃ t data osr sh, exec i s = .next t ∧
      BitsAre data (outBit m.shiftctrl.outShiftdir m.osr n) ∧
      BitsAre osr (osrBitAfter m.shiftctrl.outShiftdir m.osr n) ∧
      OutPins m dst data s.shared sh ∧
      Retired i.df .stall s
        ({ m with osr := osr, osrShiftCount := count, irqWait := none }.outDelivered s.params dst data n) sh t

/-- R226: OUT PC jumps, whatever its autopull finds. That the PC takes the low five bits is the spec's decision D8
(log 9). -/
def Obligations.OutPcJumps : Prop :=
  ∀ (df : BitVec 5) (n : Nat) (s : State), 1 ≤ n → n ≤ 32 →
    let m := s.sm s.cur
    ∃ t data osr, exec (.outPc df n) s = .next t ∧
      BitsAre data (outBit m.shiftctrl.outShiftdir m.osr n) ∧
      BitsAre osr (osrBitAfter m.shiftctrl.outShiftdir m.osr n) ∧
      Retired df .jump s
        { m with osr := osr, osrShiftCount := min (m.osrShiftCount + n) 32, irqWait := none,
                 pc := BitVec.ofNat 5 data.toNat }.afterAutopull s.shared t

/-- R229: OUT EXEC fills an empty injection slot and stalls. That the slot takes the low sixteen bits is the spec's
decision D9 (log 9). -/
def Obligations.OutExecInjects : Prop :=
  ∀ (df : BitVec 5) (n : Nat) (s : State), 1 ≤ n → n ≤ 32 → (s.sm s.cur).pendingInstruction = none →
    let m := s.sm s.cur
    ∃ t data osr, exec (.outExec df n) s = .next t ∧
      BitsAre data (outBit m.shiftctrl.outShiftdir m.osr n) ∧
      BitsAre osr (osrBitAfter m.shiftctrl.outShiftdir m.osr n) ∧
      Retired df .stall s
        { m with osr := osr, osrShiftCount := min (m.osrShiftCount + n) 32, irqWait := none,
                 pendingInstruction := some (BitVec.ofNat 16 data.toNat) }.afterAutopull s.shared t

/-- R240: a PUSH that is not asked for, does not block, or finds room completes. -/
def Obligations.PushCompletes : Prop :=
  ∀ (df : BitVec 5) (ifFull block : Bool) (s : State),
    let m := s.sm s.cur
    let m' := { m with irqWait := none }
    (m.pushWanted ifFull = true → block = true → m.rxFifo.length ≠ capRx s.params m.shiftctrl) →
    ∃ t, exec (.push df ifFull block) s = .next t ∧
      Retired df .complete s
        (if m.pushWanted ifFull = true ∧ m.rxFifo.length ≠ capRx s.params m.shiftctrl then m'.afterPush else m')
        s.shared t

/-- R241, R161: a PULL that is not asked for, does not block, or finds a word completes; a non-blocking one takes X from an
empty TX FIFO. -/
def Obligations.PullCompletes : Prop :=
  ∀ (df : BitVec 5) (ifEmpty block : Bool) (s : State),
    let m := s.sm s.cur
    let m' := { m with irqWait := none }
    (m.pullWanted ifEmpty = true → block = true → m.txFifo ≠ []) →
    ∃ t, exec (.pull df ifEmpty block) s = .next t ∧
      Retired df .complete s (if m.pullWanted ifEmpty then m'.afterPull else m') s.shared t

/-- R240, R241: a blocking PUSH to a full RX FIFO and a blocking PULL from an empty TX FIFO stall and leave the registers
and the FIFOs alone. -/
def Obligations.BlockingTransfersStall : Prop :=
  ∀ (df : BitVec 5) (cond : Bool) (s : State),
    let m := s.sm s.cur
    let m' := { m with irqWait := none }
    (m.pushWanted cond = true → m.rxFifo.length = capRx s.params m.shiftctrl →
      ∃ t, exec (.push df cond true) s = .next t ∧ Retired df .stall s m' s.shared t) ∧
    (m.pullWanted cond = true → m.txFifo = [] →
      ∃ t, exec (.pull df cond true) s = .next t ∧ Retired df .stall s m' s.shared t)

/-- R251, R260: a MOV to PINS (every instruction of form `.mov .pins`) writes the OUT window and completes; the window is
the spec's decision D7 (log 9). -/
def Obligations.MovPinsCompletes : Prop :=
  ∀ (i : Instr) (op : MovOp) (src : MovSrc) (s : State), i.form = .mov .pins op src →
    let m := s.sm s.cur
    ∃ t sh, exec i s = .next t ∧ Retired i.df .complete s { m with irqWait := none } sh t ∧
      sh = { s.shared with pinLevel := sh.pinLevel } ∧
      WindowWritten s.shared.pinLevel sh.pinLevel (movResultBit s op src)
        m.pinctrl.outBase.toNat m.pinctrl.outCount.toNat

/-- R251, R261: a MOV to X or Y (every instruction of form `.mov .x` or `.mov .y`) completes. The pins of the source
PINS are the spec's decision D7 (log 9). -/
def Obligations.MovScratchCompletes : Prop :=
  ∀ (i : Instr) (op : MovOp) (src : MovSrc) (s : State),
    let m := s.sm s.cur
    ∃ w, BitsAre w (movResultBit s op src) ∧
      (i.form = .mov .x op src → ∃ t, exec i s = .next t ∧
        Retired i.df .complete s { m with x := w, irqWait := none } s.shared t) ∧
      (i.form = .mov .y op src → ∃ t, exec i s = .next t ∧
        Retired i.df .complete s { m with y := w, irqWait := none } s.shared t)

/-- R251, R263: a MOV to ISR or OSR (every instruction of form `.mov .isr` or `.mov .osr`) completes; the counter follows
the parameter `SR_COUNT_POLICY` (decision D10, log 4). The pins of the source PINS are the spec's decision D7 (log 9). -/
def Obligations.MovShiftRegisterCompletes : Prop :=
  ∀ (i : Instr) (op : MovOp) (src : MovSrc) (s : State),
    let m := s.sm s.cur
    let keep := s.params.srCountPolicy = .keep
    ∃ w, BitsAre w (movResultBit s op src) ∧
      (i.form = .mov .isr op src → ∃ t, exec i s = .next t ∧
        Retired i.df .complete s
          { m with isr := w, isrShiftCount := if keep then m.isrShiftCount else 0, irqWait := none } s.shared t) ∧
      (i.form = .mov .osr op src → ∃ t, exec i s = .next t ∧
        Retired i.df .complete s
          { m with osr := w, osrShiftCount := if keep then m.osrShiftCount else 0, irqWait := none } s.shared t)

/-- R251, R262: a MOV to PC (every instruction of form `.mov .pc`) jumps; that the PC takes the low five bits is the spec's
decision D8 and the pins of the source PINS are its decision D7 (log 9). -/
def Obligations.MovPcJumps : Prop :=
  ∀ (i : Instr) (op : MovOp) (src : MovSrc) (s : State), i.form = .mov .pc op src →
    let m := s.sm s.cur
    ∃ t w, exec i s = .next t ∧ BitsAre w (movResultBit s op src) ∧
      Retired i.df .jump s { m with pc := BitVec.ofNat 5 w.toNat, irqWait := none } s.shared t

/-- R251, R264: a MOV to EXEC (every instruction of form `.mov .exec`) fills an empty injection slot and stalls; that the
slot takes the low sixteen bits is the spec's decision D9 and the pins of the source PINS are its decision D7 (log 9). -/
def Obligations.MovExecInjects : Prop :=
  ∀ (i : Instr) (op : MovOp) (src : MovSrc) (s : State), i.form = .mov .exec op src →
    (s.sm s.cur).pendingInstruction = none →
    let m := s.sm s.cur
    ∃ t w, exec i s = .next t ∧ BitsAre w (movResultBit s op src) ∧
      Retired i.df .stall s
        { m with pendingInstruction := some (BitVec.ofNat 16 w.toNat), irqWait := none } s.shared t

/-- R271, R272: IRQ SET and IRQ CLEAR, plain and REL, complete with their flag HIGH or LOW and every other flag as it
was. -/
def Obligations.IrqSetAndClearComplete : Prop :=
  ∀ (df : BitVec 5) (wait : Bool) (s : State),
    let m' := { s.sm s.cur with irqWait := none }
    let completes := fun (i : Instr) (index : IrqIndex) (level : Bool) =>
      ∃ t sh, exec i s = .next t ∧ Retired df .complete s m' sh t ∧
        OnlyFlagMade s.shared sh (flagNumber s.cur index) level
    (∀ index, completes (.irqSet df index) (.abs index) true) ∧
    (∀ index, completes (.irqSetRel df index) (.rel index) true) ∧
    (∀ index, completes (.irqClear df wait index) (.abs index) false) ∧
    (∀ index, completes (.irqClearRel df wait index) (.rel index) false)

/-- R273: IRQ WAIT, plain and REL, whose flag it has set before and which is now LOW, completes. The latch is the spec's
decision D11 (log 9). -/
def Obligations.IrqWaitCompletesWhenFlagLow : Prop :=
  ∀ (i : Instr) (index : IrqIndex) (latch : BitVec 3) (s : State), i.form = .irqWait index →
    (s.sm s.cur).irqWait = some latch → latch.toNat = flagNumber s.cur index →
    s.shared.irq.getLsbD latch.toNat = false →
    ∃ t, exec i s = .next t ∧ Retired i.df .complete s { s.sm s.cur with irqWait := none } s.shared t

/-- R273: IRQ WAIT, plain and REL, stalls: the first time with its flag set and latched, later with nothing changed while
the flag is HIGH. The latch is the spec's decision D11 (log 9). -/
def Obligations.IrqWaitSetsOnceAndStalls : Prop :=
  ∀ (i : Instr) (index : IrqIndex) (s : State), i.form = .irqWait index →
    (∀ latch, (s.sm s.cur).irqWait = some latch → latch.toNat = flagNumber s.cur index →
      s.shared.irq.getLsbD latch.toNat = true →
      ∃ t, exec i s = .next t ∧ Retired i.df .stall s (s.sm s.cur) s.shared t) ∧
    ((∀ latch, (s.sm s.cur).irqWait = some latch → latch.toNat ≠ flagNumber s.cur index) →
      ∃ t sh latch, exec i s = .next t ∧ latch.toNat = flagNumber s.cur index ∧
        OnlyFlagMade s.shared sh (flagNumber s.cur index) true ∧
        Retired i.df .stall s { s.sm s.cur with irqWait := some latch } sh t)

/-- R280 to R284: every SET completes. The immediate is zero-extended in X and Y by the spec's decision D20 (log 9).
The codes of the destinations are its decision D15, the wrap of a window its decision D5. -/
def Obligations.SetCompletes : Prop :=
  ∀ (df data : BitVec 5) (s : State),
    let m := s.sm s.cur
    (∃ t sh, exec (.setPins df data) s = .next t ∧ SetPinsWritten m .pins data s.shared sh ∧
      Retired df .complete s { m with irqWait := none } sh t) ∧
    (∃ t, exec (.setX df data) s = .next t ∧
      Retired df .complete s { m with x := BitVec.ofNat 32 data.toNat, irqWait := none } s.shared t) ∧
    (∃ t, exec (.setY df data) s = .next t ∧
      Retired df .complete s { m with y := BitVec.ofNat 32 data.toNat, irqWait := none } s.shared t) ∧
    (∃ t sh, exec (.setPindirs df data) s = .next t ∧ SetPinsWritten m .pindirs data s.shared sh ∧
      Retired df .complete s { m with irqWait := none } sh t)

/-- R343: each of the 18 RESERVED instructions records the decode error, with the PC and the whole word, and changes
nothing else. The sticky record is the spec's decision D12 (log 9, log 11). -/
def Obligations.ReservedRecordsDecodeError : Prop :=
  ∀ (i : Instr) (row : ReservedRow) (lsb : Byte) (s : State), i.form = .reserved row lsb →
    exec i s = .next (s.setSm s.cur
      { s.sm s.cur with fault := some (.decodeError (s.sm s.cur).pc (encode i)) })

/-- R344: `exec` answers a next state unless a bit count lies outside 1 to 32 or an EXEC finds the slot occupied, and then
it stops with the internal invariant violation the rule names (log 12). -/
def Obligations.ExecStopsOnlyOnInternalViolation : Prop :=
  ∀ (i : Instr) (s : State),
    let occupied := (s.sm s.cur).pendingInstruction.isSome = true
    let badCount := (∃ src n, i.form = .input src n ∧ (n = 0 ∨ 32 < n)) ∨
      (∃ dst n, i.form = .output dst n ∧ (n = 0 ∨ 32 < n))
    ((∃ t, exec i s = .next t) ↔ ¬ badCount ∧ ¬ (occupied ∧ fillsSlot i.form = true)) ∧
    (badCount → ∃ n, exec i s = .fault (.internalInvariantViolation (.shiftAmount n)) ∧ (n = 0 ∨ 32 < n)) ∧
    (¬ badCount → occupied → fillsSlot i.form = true →
      exec i s = .fault (.internalInvariantViolation .secondPendingInstruction))

/-! ### The tick -/

/-- R292, R293: a step whose SM fetches runs the instruction the two bytes at its PC decode to, or the word of the
injection slot, which is empty from then on; an edge listed for an SM does so on that SM, and the SM that was current is
current after it. Which SM a step ticks is the model's choice (log 2, log 3). -/
def Obligations.StepRunsDecodedInstruction : Prop :=
  ∀ (s : State) (i : Instr) (n : Fin 4) (rest : List Event) (w : InstrWord),
    (s.events = [] → (s.sm s.cur).Fetches →
      ((s.sm s.cur).pendingInstruction = none → s.CodeAt (s.sm s.cur) i → step s = exec i s) ∧
      ((s.sm s.cur).pendingInstruction = some w →
        step s = exec (decodeWord w) (s.setSm s.cur { s.sm s.cur with pendingInstruction := none }))) ∧
    (s.events = .edge n :: rest → (s.sm n).Fetches →
      let s' := { s with events := rest, cur := n }
      ((s.sm n).pendingInstruction = none → s.CodeAt (s.sm n) i →
        ∀ t, exec i s' = .next t → step s = .next { t with cur := s.cur }) ∧
      ((s.sm n).pendingInstruction = some w →
        ∀ t, exec (decodeWord w) (s'.setSm n { s.sm n with pendingInstruction := none }) = .next t →
          step s = .next { t with cur := s.cur }))

/-- R291, R292 step 1, R343: a rising edge on an SM that is disabled, whose clock gate is closed, or that has faulted
changes nothing. That a faulted SM never steps again is the spec's decision D12 (log 9). -/
def Obligations.GatedEdgeChangesNothing : Prop :=
  ∀ (s : State) (n : Fin 4) (rest : List Event),
    (s.events = [] →
      ((s.sm s.cur).enabled = false ∨ (s.sm s.cur).clockEnabled = false ∨ (s.sm s.cur).fault ≠ none) →
      step s = .next s) ∧
    (s.events = .edge n :: rest →
      ((s.sm n).enabled = false ∨ (s.sm n).clockEnabled = false ∨ (s.sm n).fault ≠ none) →
      step s = .next { s with events := rest })

/-- R294: a pending delay of `d` takes `d` edges, which change nothing but the delay. -/
def Obligations.DelayTakesItsTicks : Prop :=
  ∀ (d : Nat) (s : State), s.events = [] → (s.sm s.cur).enabled = true → (s.sm s.cur).clockEnabled = true →
    (s.sm s.cur).fault = none → (s.sm s.cur).pendingDelay = d →
    ∀ k ≤ d, Host.Core.run core k s = .next (s.setSm s.cur { s.sm s.cur with pendingDelay := d - k })

/-- R298: a word of the injection slot of SM `n` is consumed by the tick of `n` that runs it, even when it stalls; only an
EXEC word leaves the slot occupied. The tick is that of the current SM with no event listed, or that of a listed edge
(log 2, log 3). That a stalled word is lost is the spec's decision D25 (log 9). -/
def Obligations.InjectedWordIsConsumed : Prop :=
  ∀ (s t : State) (n : Fin 4) (w : InstrWord),
    (s.events = [] ∧ s.cur = n) ∨ (∃ rest, s.events = .edge n :: rest) → (s.sm n).Fetches →
    (s.sm n).pendingInstruction = some w → step s = .next t →
    ((t.sm n).pendingInstruction = none ↔ fillsSlot (decodeWord w).form = false)

/-- R27, R296: an instruction leaves the PC, moves it to the successor, or is a JMP that goes to its address, an OUT PC or
a MOV PC. -/
def Obligations.PcMovesByTheRules : Prop :=
  ∀ (i : Instr) (s t : State), exec i s = .next t →
    (t.sm s.cur).pc = (s.sm s.cur).pc ∨ (t.sm s.cur).pc = (s.sm s.cur).successor ∨
    (∃ cond address, i.form = .jmp cond address ∧ (t.sm s.cur).pc = address) ∨
    (∃ n, i.form = .output .pc n) ∨ (∃ op src, i.form = .mov .pc op src)

/-- R22: only SET, OUT, MOV and the counting JMP of a scratch register write it. -/
def Obligations.ScratchRegisterWriters : Prop :=
  ∀ (i : Instr) (s t : State), exec i s = .next t →
    ((t.sm s.cur).x ≠ (s.sm s.cur).x →
      (∃ data, i.form = .set .x data) ∨ (∃ n, i.form = .output .x n) ∨ (∃ op src, i.form = .mov .x op src) ∨
      (∃ address, i.form = .jmp .xDec address ∧ (t.sm s.cur).x = (s.sm s.cur).x - 1)) ∧
    ((t.sm s.cur).y ≠ (s.sm s.cur).y →
      (∃ data, i.form = .set .y data) ∨ (∃ n, i.form = .output .y n) ∨ (∃ op src, i.form = .mov .y op src) ∨
      (∃ address, i.form = .jmp .yDec address ∧ (t.sm s.cur).y = (s.sm s.cur).y - 1))

/-- R79, R158, R160: an instruction changes the RX FIFO only by one word at its tail, in IN and PUSH, and the TX FIFO only
by taking its head into the OSR, in OUT and PULL. -/
def Obligations.FifosChangeOnlyByPushAndPull : Prop :=
  ∀ (i : Instr) (s t : State), exec i s = .next t →
    ((t.sm s.cur).rxFifo = (s.sm s.cur).rxFifo ∨
      (((∃ src n, i.form = .input src n) ∨ ∃ a b, i.form = .push a b) ∧
        (t.sm s.cur).isr = 0 ∧ (t.sm s.cur).isrShiftCount = 0 ∧
        ∃ w, (t.sm s.cur).rxFifo = (s.sm s.cur).rxFifo ++ [w])) ∧
    ((t.sm s.cur).txFifo = (s.sm s.cur).txFifo ∨
      (((∃ dst n, i.form = .output dst n) ∨ ∃ a b, i.form = .pull a b) ∧
        (t.sm s.cur).osrShiftCount = 0 ∧
        (s.sm s.cur).txFifo = (t.sm s.cur).osr :: (t.sm s.cur).txFifo))

/-- R34: an instruction raises a flag only by IRQ SET or IRQ WAIT and lowers one only by IRQ CLEAR or a WAIT for HIGH, and
it is the flag its index names. -/
def Obligations.IrqFlagWriters : Prop :=
  ∀ (i : Instr) (s t : State) (k : Nat), exec i s = .next t → k < 8 →
    t.shared.irq.getLsbD k ≠ s.shared.irq.getLsbD k →
    ∃ index, flagNumber s.cur index = k ∧
      (((i.form = .irqSet index ∨ i.form = .irqWait index) ∧ t.shared.irq.getLsbD k = true) ∨
        (((∃ wait, i.form = .irqClear wait index) ∨ i.form = .wait true (.irq index)) ∧
          t.shared.irq.getLsbD k = false))

/-- R164: an instruction changes the level or direction latch of a pin only when the pin lies in the OUT, the SET or
the side-set window of its SM. The windows are the spec's decisions D2, D5 and D7 (log 9). -/
def Obligations.LatchesChangeOnlyInWindows : Prop :=
  ∀ (i : Instr) (s t : State) (p : Nat), exec i s = .next t → p < 32 →
    let m := s.sm s.cur
    let outside := fun (base : Index) (count : Nat) => ∀ k < 32, k < count → (base.toNat + k) % 32 ≠ p
    m.pinctrl.sidesetCount.toNat ≤ 5 →
    outside m.pinctrl.outBase m.pinctrl.outCount.toNat → outside m.pinctrl.setBase m.pinctrl.setCount.toNat →
    outside m.pinctrl.sidesetBase (sidePins m) →
    t.shared.pinLevel.getLsbD p = s.shared.pinLevel.getLsbD p ∧
    t.shared.pinDir.getLsbD p = s.shared.pinDir.getLsbD p

/-- R74, R351, R355: no instruction writes the instruction memory, a configuration register, the run control, the pin
inputs or another SM. The list of events and the reply are the model's own (log 2, log 14). -/
def Obligations.InstructionsWriteNoConfiguration : Prop :=
  ∀ (i : Instr) (s t : State), exec i s = .next t →
    (∀ n, n ≠ s.cur → t.sm n = s.sm n) ∧
    (t.sm s.cur).execctrl = (s.sm s.cur).execctrl ∧ (t.sm s.cur).shiftctrl = (s.sm s.cur).shiftctrl ∧
    (t.sm s.cur).pinctrl = (s.sm s.cur).pinctrl ∧ (t.sm s.cur).enabled = (s.sm s.cur).enabled ∧
    (t.sm s.cur).clockEnabled = (s.sm s.cur).clockEnabled ∧
    t.shared.imem = s.shared.imem ∧ t.shared.pinIn = s.shared.pinIn ∧
    t.params = s.params ∧ t.cur = s.cur ∧ t.events = s.events ∧ t.reply = s.reply

/-- R71, R344: no step stops: every fetch address is in range (the fault for one outside is log 22) and no internal
invariant violation is reachable (log 12), from any state. In a state that no run reaches this rests on the model's choice
of what an illegal state does (log 16). -/
def Obligations.StepAlwaysAnswers : Prop :=
  ∀ s : State, ∃ t, step s = .next t

/-- R35: every step, of a program, the host or the environment, keeps the invariant. That both join flags are refused
is the spec's decision D14 (log 9). -/
def Obligations.StepKeepsInvariant : Prop :=
  ∀ s t : State, s.Inv → step s = .next t → t.Inv

/-- The state after reset meets the invariant and what R50's table gives for construction. Of these values the counters, the
PC, the delay, the slot, WRAP_TOP and WRAP_BOTTOM are stated by the source; `irqWait` (decision D11), `fault` (D12), the
disabled SM, the empty FIFOs and the LOW flags (D13) and the open clock gate (D27) are the spec's own decisions (log 9);
that the default parameters are legal is about log 4 (PRESUMED). The values R50 leaves open are the model's choice (log 5
to 8) and are not spoken of. -/
def Obligations.ResetIsLegalAndConstructed : Prop :=
  State.reset.Inv ∧ State.reset.Constructed

/-- Every block that R50 allows after construction, whatever the open values, meets the invariant. -/
def Obligations.ConstructedIsLegal : Prop :=
  ∀ s : State, s.Constructed → s.Inv

/-- R32, R343: a recorded fault stays, whatever step follows, and the faulted SM keeps its program state under every
transition that is not a host operation on it or its clock gate. The sticky record is the spec's decision D12 (log 9). -/
def Obligations.FaultIsSticky : Prop :=
  ∀ (s t : State) (n : Fin 4), (s.sm n).fault ≠ none → step s = .next t →
    (t.sm n).fault = (s.sm n).fault ∧
    ((∀ op rest, s.events ≠ .host n op :: rest) → (∀ v rest, s.events ≠ .setClockEnabled n v :: rest) →
      t.sm n = s.sm n)

/-- R290: runs of ticks of one SM in two states that agree on that SM and on what is shared stay in agreement, whatever
the other SMs hold, and leave the other SMs alone. -/
def Obligations.TicksIgnoreOtherSms : Prop :=
  ∀ (k : Nat) (s s' t : State), s.events = [] → s'.events = [] → s'.cur = s.cur → SameForSm s.cur s s' →
    Host.Core.run core k s = .next t →
    ∃ t', Host.Core.run core k s' = .next t' ∧ SameForSm s.cur t t' ∧
      (∀ n, n ≠ s.cur → t.sm n = s.sm n ∧ t'.sm n = s'.sm n)

/-- R297: while a PUSH, a PULL or a WAIT IRQ from memory stalls, a second tick changes nothing more. -/
def Obligations.StalledTickIsIdempotent : Prop :=
  ∀ (s t : State) (i : Instr), s.events = [] → (s.sm s.cur).Fetches → (s.sm s.cur).pendingInstruction = none →
    s.CodeAt (s.sm s.cur) i →
    ((∃ a, i.form = .push a true ∧ (s.sm s.cur).pushWanted a = true ∧
        (s.sm s.cur).rxFifo.length = capRx s.params (s.sm s.cur).shiftctrl) ∨
      (∃ a, i.form = .pull a true ∧ (s.sm s.cur).pullWanted a = true ∧ (s.sm s.cur).txFifo = []) ∨
      (∃ p index, i.form = .wait p (.irq index) ∧ s.shared.irq.getLsbD (flagNumber s.cur index) ≠ p)) →
    step s = .next t → step t = .next t

/-- R273, R324: an IRQ WAIT sets its flag, waits, and completes after the host has cleared the flag, with the PC at
the successor. The latch is the spec's decision D11 (log 9), the list of events the model's (log 2). -/
def Obligations.IrqWaitHandshakeWithHost : Prop :=
  ∀ (s : State) (n : Fin 4) (i : Instr) (index : IrqIndex) (flag : BitVec 3) (rest : List Event),
    s.events = .edge n :: .irqClear flag :: .edge n :: rest →
    (s.sm n).Fetches → (s.sm n).pendingInstruction = none → (s.sm n).irqWait = none →
    s.CodeAt (s.sm n) i → i.form = .irqWait index → flag.toNat = flagNumber n index →
    ∃ t1 t3, Host.Core.run core 1 s = .next t1 ∧ t1.shared.irq.getLsbD flag.toNat = true ∧
      (t1.sm n).pc = (s.sm n).pc ∧ (t1.sm n).irqWait = some flag ∧
      Host.Core.run core 3 s = .next t3 ∧ t3.shared.irq.getLsbD flag.toNat = false ∧
      (t3.sm n).pc = (s.sm n).successor ∧ (t3.sm n).irqWait = none ∧ t3.events = rest

/-- R104: of two SMs waiting for one HIGH flag, the first in step order consumes it and the second goes on waiting.
The list of events is the model's (log 2). -/
def Obligations.WaitConsumesTheFlagOnce : Prop :=
  ∀ (s : State) (a b : Fin 4) (i j : Instr) (indexA indexB : IrqIndex) (rest : List Event),
    a ≠ b → s.events = .edge a :: .edge b :: rest →
    (s.sm a).Fetches → (s.sm b).Fetches →
    (s.sm a).pendingInstruction = none → (s.sm b).pendingInstruction = none →
    s.CodeAt (s.sm a) i → s.CodeAt (s.sm b) j →
    i.form = .wait true (.irq indexA) → j.form = .wait true (.irq indexB) →
    flagNumber a indexA = flagNumber b indexB → s.shared.irq.getLsbD (flagNumber a indexA) = true →
    ∃ t, Host.Core.run core 2 s = .next t ∧ (t.sm a).pc = (s.sm a).successor ∧ (t.sm b).pc = (s.sm b).pc ∧
      t.shared.irq.getLsbD (flagNumber a indexA) = false

/-- R301: a block tick is an edge for each SM whose divider gives one, in the order `SM_ORDER` (decision D24, log 4,
log 25), before anything that comes later. -/
def Obligations.BlockTickInOrder : Prop :=
  ∀ (s : State) (edges : BitVec 4) (rest : List Event), s.events = .blockTick edges :: rest → s.params.Legal →
    ∃ order : List (Fin 4),
      step s = .next { s with events := order.map Event.edge ++ rest } ∧
      (∀ n, n ∈ order ↔ edges.getLsbD n.val = true) ∧
      order.Sublist s.params.smOrder.toList

/-! ### Memory and host operations -/

/-- R71, R72, R75, R322: a word loaded at an address is what a fetch of that address reads, low byte first; every
other word is as before. That word a lies at bytes 2a and 2a + 1 is the model's layout (log 17). -/
def Obligations.LoadThenFetch : Prop :=
  ∀ (s : State) (addr a : Index) (word : InstrWord) (rest : List Event), s.Inv →
    s.events = .memorySet addr word :: rest →
    ∃ t, step s = .next t ∧
      memoryGet t.shared.imem addr.toNat = .ok word ∧
      readByte t.shared.imem (2 * addr.toNat) = word.extractLsb' 0 8 ∧
      readByte t.shared.imem (2 * addr.toNat + 1) = word.extractLsb' 8 8 ∧
      (a ≠ addr → memoryGet t.shared.imem a.toNat = memoryGet s.shared.imem a.toNat) ∧
      t = { s with events := rest, reply := some .done, shared := { s.shared with imem := t.shared.imem } }

/-- R319, R341, R80: the granular setters. One of a number stores a value of the accepted range in its field and changes
nothing else, and refuses any other value with no change: up to 15 for STATUS_N, up to 5 for SIDESET_COUNT (decision D1,
log 9) and SET_COUNT, up to 31 for the ten others. One of SIDE_EN, STATUS_SEL, AUTOPULL, AUTOPUSH, SIDE_PINDIR, IN_SHIFTDIR
or OUT_SHIFTDIR stores each value. One of a join flag is refused when both would be set, else stores the flag, and a change
of it empties both FIFOs (decision D14, log 9); which field that refusal names is the model's choice (log 15) and is not
spoken of. -/
def Obligations.GranularSettersCheckTheirRange : Prop :=
  ∀ (m : SM) (p : Params) (f g : NumField) (v : Nat) (b : Bool) (side : SideTarget) (dir : ShiftDir),
    let top := if f = .statusN then 15 else if f = .sidesetCount ∨ f = .setCount then 5 else 31
    let ec := m.execctrl
    let sc := m.shiftctrl
    (v ≤ top →
      let m' := (m.hostOp p (.setNum f v)).1
      (m.hostOp p (.setNum f v)).2 = .done ∧ m'.readNum f = v ∧ (g ≠ f → m'.readNum g = m.readNum g) ∧
      m'.choices = m.choices ∧
      { m' with execctrl := m.execctrl, shiftctrl := m.shiftctrl, pinctrl := m.pinctrl } = m) ∧
    (top < v → m.hostOp p (.setNum f v) = (m, .failed (.invalidArgument (.num f) v))) ∧
    m.hostOp p (.setFlag .sideEn b) = ({ m with execctrl := { ec with sideEn := b } }, .done) ∧
    m.hostOp p (.setFlag .statusSel b) = ({ m with execctrl := { ec with statusSel := b } }, .done) ∧
    m.hostOp p (.setFlag .autopull b) = ({ m with shiftctrl := { sc with autopull := b } }, .done) ∧
    m.hostOp p (.setFlag .autopush b) = ({ m with shiftctrl := { sc with autopush := b } }, .done) ∧
    m.hostOp p (.setSidePindir side) = ({ m with execctrl := { ec with sidePindir := side } }, .done) ∧
    m.hostOp p (.setInShiftdir dir) = ({ m with shiftctrl := { sc with inShiftdir := dir } }, .done) ∧
    m.hostOp p (.setOutShiftdir dir) = ({ m with shiftctrl := { sc with outShiftdir := dir } }, .done) ∧
    (sc.joinTx = true → ∃ a c, m.hostOp p (.setFlag .joinRx true) = (m, .failed (.invalidArgument a c))) ∧
    (sc.joinRx = true → ∃ a c, m.hostOp p (.setFlag .joinTx true) = (m, .failed (.invalidArgument a c))) ∧
    (¬ (b = true ∧ sc.joinTx = true) → m.hostOp p (.setFlag .joinRx b) =
      (if b = sc.joinRx then m else { m with shiftctrl := { sc with joinRx := b }, txFifo := [], rxFifo := [] }, .done)) ∧
    (¬ (b = true ∧ sc.joinRx = true) → m.hostOp p (.setFlag .joinTx b) =
      (if b = sc.joinTx then m else { m with shiftctrl := { sc with joinTx := b }, txFifo := [], rxFifo := [] }, .done))

/-- R41 to R43, R45: a getter of a configuration register returns the word with the fields at their bit positions and 0 in
every unused bit; a setter that succeeds sets every field to its slice of the word, and the getter then returns that word
without its unused bits. The bit values of SIDE_PINDIR and of the two shift directions are the spec's decision D15
(log 9). -/
def Obligations.PackedRegistersRoundTrip : Prop :=
  ∀ (m : SM) (p : Params) (x : Word),
    (∃ w, m.hostOp p .getEXECCTRL = (m, .word w) ∧ ExecFields m.execctrl w ∧ w &&& ~~~0x7F01FF9F#32 = 0) ∧
    (∃ w, m.hostOp p .getSHIFTCTRL = (m, .word w) ∧ ShiftFields m.shiftctrl w ∧ w &&& ~~~0xFFFF0000#32 = 0) ∧
    (∃ w, m.hostOp p .getPINCTRL = (m, .word w) ∧ PinFields m.pinctrl w) ∧
    (∀ m', m.hostOp p (.setEXECCTRL x) = (m', .done) → ExecFields m'.execctrl x ∧
      (m'.hostOp p .getEXECCTRL).2 = .word (x &&& 0x7F01FF9F#32)) ∧
    (∀ m', m.hostOp p (.setSHIFTCTRL x) = (m', .done) → ShiftFields m'.shiftctrl x ∧
      (m'.hostOp p .getSHIFTCTRL).2 = .word (x &&& 0xFFFF0000#32)) ∧
    (∀ m', m.hostOp p (.setPINCTRL x) = (m', .done) → PinFields m'.pinctrl x ∧
      (m'.hostOp p .getPINCTRL).2 = .word (x &&& 0xFFFFFFFF#32))

/-- R44, R80, R318: a whole-register write is stored, or refused with no change when a field is illegal or both join flags
are set; a change of a join flag empties both FIFOs. The refusal and the emptying are the spec's decisions D14 and D23
(log 9); which field the reply names is the model's choice (log 15) and is not spoken of. -/
def Obligations.RegisterWritesAreValidated : Prop :=
  ∀ (m : SM) (p : Params) (x : Word),
    m.hostOp p (.setEXECCTRL x) = ({ m with execctrl := .unpack x }, .done) ∧
    (x.toNat / 2 ^ 29 ≤ 5 ∧ x.toNat / 2 ^ 26 % 8 ≤ 5 ∧ x.toNat / 2 ^ 20 % 64 ≤ 31 →
      m.hostOp p (.setPINCTRL x) = ({ m with pinctrl := .unpack x }, .done)) ∧
    (¬ (x.toNat / 2 ^ 29 ≤ 5 ∧ x.toNat / 2 ^ 26 % 8 ≤ 5 ∧ x.toNat / 2 ^ 20 % 64 ≤ 31) →
      ∃ f v, m.hostOp p (.setPINCTRL x) = (m, .failed (.invalidArgument f v))) ∧
    (3 ≤ x.toNat / 2 ^ 30 → ∃ f v, m.hostOp p (.setSHIFTCTRL x) = (m, .failed (.invalidArgument f v))) ∧
    (x.toNat / 2 ^ 30 < 3 →
      let c := ShiftCtrl.unpack x
      let same := c.joinRx = m.shiftctrl.joinRx ∧ c.joinTx = m.shiftctrl.joinTx
      (same → m.hostOp p (.setSHIFTCTRL x) = ({ m with shiftctrl := c }, .done)) ∧
      (¬ same → m.hostOp p (.setSHIFTCTRL x) = ({ m with shiftctrl := c, txFifo := [], rxFifo := [] }, .done)))

/-- R51, R81, R310 to R316, R323: what the run-control, register and FIFO operations of the host write, and nothing else.
That `restart` clears ISR and keeps X, Y and OSR is the spec's decision D13, what `setPC` and the value setters leave D22,
the names of `hostTxWrite` and `hostRxRead` with their refusals D17 (log 9); how the refusal of a second injected word
reaches the host, as a reply, is the model's choice (log 12). -/
def Obligations.HostOperationsOnOneSm : Prop :=
  ∀ (m : SM) (p : Params) (v : Nat) (w : Word) (word : InstrWord),
    m.hostOp p .enable = ({ m with enabled := true }, .done) ∧
    m.hostOp p .disable = ({ m with enabled := false }, .done) ∧
    m.hostOp p .restart =
      ({ m with isrShiftCount := 0, osrShiftCount := 32, pc := 0, pendingDelay := 0,
                pendingInstruction := none, isr := 0, irqWait := none }, .done) ∧
    (v ≤ 31 → m.hostOp p (.setPC v) = ({ m with pc := BitVec.ofNat 5 v }, .done)) ∧
    (31 < v → m.hostOp p (.setPC v) = (m, .failed (.invalidArgument .pc v))) ∧
    m.hostOp p (.setX w) = ({ m with x := w }, .done) ∧ m.hostOp p (.setY w) = ({ m with y := w }, .done) ∧
    m.hostOp p (.setISRValue w) = ({ m with isr := w }, .done) ∧
    m.hostOp p (.setOSRValue w) = ({ m with osr := w }, .done) ∧
    (m.pendingInstruction = none →
      m.hostOp p (.insertInstruction word) = ({ m with pendingInstruction := some word }, .done)) ∧
    (m.pendingInstruction ≠ none → m.hostOp p (.insertInstruction word) =
      (m, .failed (.internalInvariantViolation .secondPendingInstruction))) ∧
    (m.rxFifo = [] → m.hostOp p .hostRxRead = (m, .refused)) ∧
    (∀ head rest, m.rxFifo = head :: rest → m.hostOp p .hostRxRead = ({ m with rxFifo := rest }, .word head)) ∧
    (m.txFifo.length < capTx p m.shiftctrl →
      m.hostOp p (.hostTxWrite w) = ({ m with txFifo := m.txFifo ++ [w] }, .done)) ∧
    (capTx p m.shiftctrl ≤ m.txFifo.length → m.hostOp p (.hostTxWrite w) = (m, .refused))

/-- R79, R81, R323: words the host writes while there is room stand in the TX FIFO in the order written, after those
already there. The names and the refusal of these operations are the spec's decision D17 (log 9), their place between
ticks the model's list of events (log 2). -/
def Obligations.HostWritesQueueInOrder : Prop :=
  ∀ (ws : List Word) (s : State) (n : Fin 4) (rest : List Event),
    s.events = ws.map (fun w => Event.host n (.hostTxWrite w)) ++ rest →
    (s.sm n).txFifo.length + ws.length ≤ capTx s.params (s.sm n).shiftctrl →
    ∃ t, Host.Core.run core ws.length s = .next t ∧ t.events = rest ∧
      t.sm n = { s.sm n with txFifo := (s.sm n).txFifo ++ ws } ∧
      (∀ k, k ≠ n → t.sm k = s.sm k) ∧ t.shared = s.shared

/-- What the host and the environment do to what the SMs share, and to a clock gate; nothing else of the machine changes.
R88 to R90, R324: the host reads, sets and clears one IRQ flag; that the flags are numbered 0 to 7 is the spec's decision
D19 (log 9). R83, R325: the environment sets the pin inputs (between ticks, log 24) and the host reads the output latches,
which are the spec's decision D18 (log 9). R86, R87, R385: an agent outside the block writes a window of the latches
(log 21); that a window wraps is decision D5 (log 9). R28: the divider drives the clock gate of one SM (decision D27, log 9;
log 23). That these come as listed events with a reply is the model's (log 2, log 14). -/
def Obligations.OutsideAccessToFlagsPinsAndClockGate : Prop :=
  ∀ (s : State) (i : BitVec 3) (v data : Word) (base : Index) (count : Nat) (n : Fin 4) (gate : Bool) (rest : List Event),
    (s.events = .irqGet i :: rest →
      step s = .next { s with events := rest, reply := some (.level (s.shared.irq.getLsbD i.toNat)) }) ∧
    (s.events = .irqSet i :: rest → ∃ sh, OnlyFlagMade s.shared sh i.toNat true ∧
      step s = .next { s with events := rest, reply := some .done, shared := sh }) ∧
    (s.events = .irqClear i :: rest → ∃ sh, OnlyFlagMade s.shared sh i.toNat false ∧
      step s = .next { s with events := rest, reply := some .done, shared := sh }) ∧
    (s.events = .setPinIn v :: rest →
      step s = .next { s with events := rest, shared := { s.shared with pinIn := v } }) ∧
    (s.events = .readPinLevel :: rest →
      step s = .next { s with events := rest, reply := some (.word s.shared.pinLevel) }) ∧
    (s.events = .readPinDir :: rest →
      step s = .next { s with events := rest, reply := some (.word s.shared.pinDir) }) ∧
    (count ≤ 32 → s.events = .gpioSetPins data base count :: rest →
      ∃ level, WindowWritten s.shared.pinLevel level data.getLsbD base.toNat count ∧
        step s = .next { s with events := rest, reply := some .done, shared := { s.shared with pinLevel := level } }) ∧
    (count ≤ 32 → s.events = .gpioSetPinDirs data base count :: rest →
      ∃ dir, WindowWritten s.shared.pinDir dir data.getLsbD base.toNat count ∧
        step s = .next { s with events := rest, reply := some .done, shared := { s.shared with pinDir := dir } }) ∧
    (s.events = .setClockEnabled n gate :: rest →
      step s = .next ({ s with events := rest }.setSm n { s.sm n with clockEnabled := gate }))
end

