-- ==== Sys2Proof/Laws/State.lean ====
section
/-! SUPPORT. One lemma per field per update of the state records, true by unfolding, so that no later proof unfolds a
record update. -/

namespace Sys2Proof.Machine

/-! ### The four SMs -/

@[simp] theorem State.sm_setSm_self (s : State) (n : Fin 4) (m : SM) : (s.setSm n m).sm n = m := by
  simp [State.sm, State.setSm]

theorem State.sm_setSm_ne (s : State) {n k : Fin 4} (m : SM) (h : k ≠ n) : (s.setSm n m).sm k = s.sm k := by
  have h' : n.val ≠ k.val := fun e => h (Fin.ext e.symm)
  simp [State.sm, State.setSm, h']

theorem State.sm_setSm (s : State) (n k : Fin 4) (m : SM) :
    (s.setSm n m).sm k = if k = n then m else s.sm k := by
  split
  · next h => subst h; simp
  · next h => exact s.sm_setSm_ne m h

/-- Two states agree when they hold the same SMs and the same of all else. -/
theorem State.ext_sm {s t : State} (hp : s.params = t.params) (hm : ∀ n, s.sm n = t.sm n)
    (hs : s.shared = t.shared) (hc : s.cur = t.cur) (he : s.events = t.events) (hr : s.reply = t.reply) : s = t := by
  cases s; cases t
  simp only [State.sm] at *
  simp only [State.mk.injEq]
  refine ⟨hp, ?_, hs, hc, he, hr⟩
  ext i hi : 1
  exact hm ⟨i, hi⟩

@[simp] theorem State.setSm_same (s : State) (n : Fin 4) : s.setSm n (s.sm n) = s := by
  refine State.ext_sm rfl (fun k => ?_) rfl rfl rfl rfl
  rw [State.sm_setSm]; split <;> simp_all

@[simp] theorem State.setSm_params (s : State) (n : Fin 4) (m : SM) : (s.setSm n m).params = s.params := rfl
@[simp] theorem State.setSm_shared (s : State) (n : Fin 4) (m : SM) : (s.setSm n m).shared = s.shared := rfl
@[simp] theorem State.setSm_cur (s : State) (n : Fin 4) (m : SM) : (s.setSm n m).cur = s.cur := rfl
@[simp] theorem State.setSm_events (s : State) (n : Fin 4) (m : SM) : (s.setSm n m).events = s.events := rfl
@[simp] theorem State.setSm_reply (s : State) (n : Fin 4) (m : SM) : (s.setSm n m).reply = s.reply := rfl

/-! ### A change of another part leaves the SMs alone -/

@[simp] theorem State.sm_with_params (s : State) (z : Params) (n : Fin 4) : State.sm { s with params := z } n = s.sm n := rfl
@[simp] theorem State.sm_with_shared (s : State) (z : Shared) (n : Fin 4) : State.sm { s with shared := z } n = s.sm n := rfl
@[simp] theorem State.sm_with_cur (s : State) (z : Fin 4) (n : Fin 4) : State.sm { s with cur := z } n = s.sm n := rfl
@[simp] theorem State.sm_with_events (s : State) (z : List Event) (n : Fin 4) : State.sm { s with events := z } n = s.sm n := rfl
@[simp] theorem State.sm_with_reply (s : State) (z : Option Reply) (n : Fin 4) : State.sm { s with reply := z } n = s.sm n := rfl

/-! ### The view of a tick -/

@[simp] theorem State.view_num (s : State) : s.view.num = s.cur := rfl
@[simp] theorem State.view_params (s : State) : s.view.params = s.params := rfl
@[simp] theorem State.view_sm (s : State) : s.view.sm = s.sm s.cur := rfl
@[simp] theorem State.view_shared (s : State) : s.view.shared = s.shared := rfl

@[simp] theorem State.sm_putView_cur (s : State) (v : View) : (s.putView v).sm s.cur = v.sm := s.sm_setSm_self _ _

theorem State.sm_putView_ne (s : State) (v : View) {n : Fin 4} (h : n ≠ s.cur) : (s.putView v).sm n = s.sm n :=
  s.sm_setSm_ne _ h

theorem State.sm_putView (s : State) (v : View) (n : Fin 4) :
    (s.putView v).sm n = if n = s.cur then v.sm else s.sm n := s.sm_setSm _ _ _

@[simp] theorem State.putView_params (s : State) (v : View) : (s.putView v).params = s.params := rfl
@[simp] theorem State.putView_shared (s : State) (v : View) : (s.putView v).shared = v.shared := rfl
@[simp] theorem State.putView_cur (s : State) (v : View) : (s.putView v).cur = s.cur := rfl
@[simp] theorem State.putView_events (s : State) (v : View) : (s.putView v).events = s.events := rfl
@[simp] theorem State.putView_reply (s : State) (v : View) : (s.putView v).reply = s.reply := rfl

/-! ### What the SMs share -/

@[simp] theorem Shared.setPins_imem (sh : Shared) (d : Word) (b : Index) (c : Nat) : (sh.setPins d b c).imem = sh.imem := rfl
@[simp] theorem Shared.setPins_irq (sh : Shared) (d : Word) (b : Index) (c : Nat) : (sh.setPins d b c).irq = sh.irq := rfl
@[simp] theorem Shared.setPins_pinIn (sh : Shared) (d : Word) (b : Index) (c : Nat) : (sh.setPins d b c).pinIn = sh.pinIn := rfl
@[simp] theorem Shared.setPins_pinLevel (sh : Shared) (d : Word) (b : Index) (c : Nat) : (sh.setPins d b c).pinLevel = writeWindow sh.pinLevel d b c := by simp only [Shared.setPins]
@[simp] theorem Shared.setPins_pinDir (sh : Shared) (d : Word) (b : Index) (c : Nat) : (sh.setPins d b c).pinDir = sh.pinDir := rfl

@[simp] theorem Shared.setPinDirs_imem (sh : Shared) (d : Word) (b : Index) (c : Nat) : (sh.setPinDirs d b c).imem = sh.imem := rfl
@[simp] theorem Shared.setPinDirs_irq (sh : Shared) (d : Word) (b : Index) (c : Nat) : (sh.setPinDirs d b c).irq = sh.irq := rfl
@[simp] theorem Shared.setPinDirs_pinIn (sh : Shared) (d : Word) (b : Index) (c : Nat) : (sh.setPinDirs d b c).pinIn = sh.pinIn := rfl
@[simp] theorem Shared.setPinDirs_pinLevel (sh : Shared) (d : Word) (b : Index) (c : Nat) : (sh.setPinDirs d b c).pinLevel = sh.pinLevel := rfl
@[simp] theorem Shared.setPinDirs_pinDir (sh : Shared) (d : Word) (b : Index) (c : Nat) : (sh.setPinDirs d b c).pinDir = writeWindow sh.pinDir d b c := by simp only [Shared.setPinDirs]

@[simp] theorem Shared.irqSet_imem (sh : Shared) (i : BitVec 3) : (sh.irqSet i).imem = sh.imem := rfl
@[simp] theorem Shared.irqSet_irq (sh : Shared) (i : BitVec 3) : (sh.irqSet i).irq = sh.irq ||| (1#8 <<< i.toNat) := by simp only [Shared.irqSet]
@[simp] theorem Shared.irqSet_pinIn (sh : Shared) (i : BitVec 3) : (sh.irqSet i).pinIn = sh.pinIn := rfl
@[simp] theorem Shared.irqSet_pinLevel (sh : Shared) (i : BitVec 3) : (sh.irqSet i).pinLevel = sh.pinLevel := rfl
@[simp] theorem Shared.irqSet_pinDir (sh : Shared) (i : BitVec 3) : (sh.irqSet i).pinDir = sh.pinDir := rfl

@[simp] theorem Shared.irqClear_imem (sh : Shared) (i : BitVec 3) : (sh.irqClear i).imem = sh.imem := rfl
@[simp] theorem Shared.irqClear_irq (sh : Shared) (i : BitVec 3) : (sh.irqClear i).irq = sh.irq &&& ~~~(1#8 <<< i.toNat) := by simp only [Shared.irqClear]
@[simp] theorem Shared.irqClear_pinIn (sh : Shared) (i : BitVec 3) : (sh.irqClear i).pinIn = sh.pinIn := rfl
@[simp] theorem Shared.irqClear_pinLevel (sh : Shared) (i : BitVec 3) : (sh.irqClear i).pinLevel = sh.pinLevel := rfl
@[simp] theorem Shared.irqClear_pinDir (sh : Shared) (i : BitVec 3) : (sh.irqClear i).pinDir = sh.pinDir := rfl

/-! ### The operations of one SM on its view -/

@[simp] theorem View.setPins_num (v : View) (d : Word) (b : Index) (c : Nat) : (v.setPins d b c).num = v.num := rfl
@[simp] theorem View.setPins_params (v : View) (d : Word) (b : Index) (c : Nat) : (v.setPins d b c).params = v.params := rfl
@[simp] theorem View.setPins_sm (v : View) (d : Word) (b : Index) (c : Nat) : (v.setPins d b c).sm = v.sm := rfl
@[simp] theorem View.setPins_shared (v : View) (d : Word) (b : Index) (c : Nat) : (v.setPins d b c).shared = v.shared.setPins d b c := rfl

@[simp] theorem View.setPinDirs_num (v : View) (d : Word) (b : Index) (c : Nat) : (v.setPinDirs d b c).num = v.num := rfl
@[simp] theorem View.setPinDirs_params (v : View) (d : Word) (b : Index) (c : Nat) : (v.setPinDirs d b c).params = v.params := rfl
@[simp] theorem View.setPinDirs_sm (v : View) (d : Word) (b : Index) (c : Nat) : (v.setPinDirs d b c).sm = v.sm := rfl
@[simp] theorem View.setPinDirs_shared (v : View) (d : Word) (b : Index) (c : Nat) : (v.setPinDirs d b c).shared = v.shared.setPinDirs d b c := rfl

@[simp] theorem View.irqSet_num (v : View) (i : BitVec 3) : (v.irqSet i).num = v.num := rfl
@[simp] theorem View.irqSet_params (v : View) (i : BitVec 3) : (v.irqSet i).params = v.params := rfl
@[simp] theorem View.irqSet_sm (v : View) (i : BitVec 3) : (v.irqSet i).sm = v.sm := rfl
@[simp] theorem View.irqSet_shared (v : View) (i : BitVec 3) : (v.irqSet i).shared = v.shared.irqSet i := rfl

@[simp] theorem View.irqClear_num (v : View) (i : BitVec 3) : (v.irqClear i).num = v.num := rfl
@[simp] theorem View.irqClear_params (v : View) (i : BitVec 3) : (v.irqClear i).params = v.params := rfl
@[simp] theorem View.irqClear_sm (v : View) (i : BitVec 3) : (v.irqClear i).sm = v.sm := rfl
@[simp] theorem View.irqClear_shared (v : View) (i : BitVec 3) : (v.irqClear i).shared = v.shared.irqClear i := rfl

@[simp] theorem View.setX_num (v : View) (w : Word) : (v.setX w).num = v.num := rfl
@[simp] theorem View.setX_params (v : View) (w : Word) : (v.setX w).params = v.params := rfl
@[simp] theorem View.setX_sm (v : View) (w : Word) : (v.setX w).sm = { v.sm with x := w } := rfl
@[simp] theorem View.setX_shared (v : View) (w : Word) : (v.setX w).shared = v.shared := rfl

@[simp] theorem View.setY_num (v : View) (w : Word) : (v.setY w).num = v.num := rfl
@[simp] theorem View.setY_params (v : View) (w : Word) : (v.setY w).params = v.params := rfl
@[simp] theorem View.setY_sm (v : View) (w : Word) : (v.setY w).sm = { v.sm with y := w } := rfl
@[simp] theorem View.setY_shared (v : View) (w : Word) : (v.setY w).shared = v.shared := rfl

@[simp] theorem View.setIsr_num (v : View) (w : Word) (n : Nat) : (v.setIsr w n).num = v.num := rfl
@[simp] theorem View.setIsr_params (v : View) (w : Word) (n : Nat) : (v.setIsr w n).params = v.params := rfl
@[simp] theorem View.setIsr_sm (v : View) (w : Word) (n : Nat) : (v.setIsr w n).sm = { v.sm with isr := w, isrShiftCount := n } := rfl
@[simp] theorem View.setIsr_shared (v : View) (w : Word) (n : Nat) : (v.setIsr w n).shared = v.shared := rfl

@[simp] theorem View.setOsr_num (v : View) (w : Word) (n : Nat) : (v.setOsr w n).num = v.num := rfl
@[simp] theorem View.setOsr_params (v : View) (w : Word) (n : Nat) : (v.setOsr w n).params = v.params := rfl
@[simp] theorem View.setOsr_sm (v : View) (w : Word) (n : Nat) : (v.setOsr w n).sm = { v.sm with osr := w, osrShiftCount := n } := rfl
@[simp] theorem View.setOsr_shared (v : View) (w : Word) (n : Nat) : (v.setOsr w n).shared = v.shared := rfl

@[simp] theorem View.setPc_num (v : View) (a : Index) : (v.setPc a).num = v.num := rfl
@[simp] theorem View.setPc_params (v : View) (a : Index) : (v.setPc a).params = v.params := rfl
@[simp] theorem View.setPc_sm (v : View) (a : Index) : (v.setPc a).sm = { v.sm with pc := a } := rfl
@[simp] theorem View.setPc_shared (v : View) (a : Index) : (v.setPc a).shared = v.shared := rfl

@[simp] theorem View.setIrqWait_num (v : View) (l : Option (BitVec 3)) : (v.setIrqWait l).num = v.num := rfl
@[simp] theorem View.setIrqWait_params (v : View) (l : Option (BitVec 3)) : (v.setIrqWait l).params = v.params := rfl
@[simp] theorem View.setIrqWait_sm (v : View) (l : Option (BitVec 3)) : (v.setIrqWait l).sm = { v.sm with irqWait := l } := rfl
@[simp] theorem View.setIrqWait_shared (v : View) (l : Option (BitVec 3)) : (v.setIrqWait l).shared = v.shared := rfl

@[simp] theorem View.rxAppend_num (v : View) (w : Word) : (v.rxAppend w).num = v.num := rfl
@[simp] theorem View.rxAppend_params (v : View) (w : Word) : (v.rxAppend w).params = v.params := rfl
@[simp] theorem View.rxAppend_sm (v : View) (w : Word) : (v.rxAppend w).sm = { v.sm with rxFifo := v.sm.rxFifo ++ [w] } := rfl
@[simp] theorem View.rxAppend_shared (v : View) (w : Word) : (v.rxAppend w).shared = v.shared := rfl

@[simp] theorem View.takeDecodeError_num (v : View) (w : InstrWord) : (v.takeDecodeError w).num = v.num := rfl
@[simp] theorem View.takeDecodeError_params (v : View) (w : InstrWord) : (v.takeDecodeError w).params = v.params := rfl
@[simp] theorem View.takeDecodeError_sm (v : View) (w : InstrWord) : (v.takeDecodeError w).sm = { v.sm with fault := some (.decodeError v.sm.pc w) } := rfl
@[simp] theorem View.takeDecodeError_shared (v : View) (w : InstrWord) : (v.takeDecodeError w).shared = v.shared := rfl

end Sys2Proof.Machine
end

