-- ==== Sys2Proof/Laws/Bits.lean ====
section
/-! SUPPORT. Bit by bit: one lemma per value built in Machine/Ops.lean and Machine/Operands.lean. -/

namespace Sys2Proof.Machine

theorem sumBits_lt (f : Nat → Bool) : ∀ n, sumBits f n < 2 ^ n
  | 0 => by simp [sumBits]
  | n + 1 => by
    have h := sumBits_lt f n
    rw [sumBits, pow_succ]
    cases f n <;> simp <;> omega

theorem testBit_sumBits (f : Nat → Bool) (k : Nat) : ∀ n, (sumBits f n).testBit k = (decide (k < n) && f k)
  | 0 => by simp [sumBits]
  | n + 1 => by
    have hlt := sumBits_lt f n
    have ih := testBit_sumBits f k n
    rw [sumBits]
    rcases Nat.lt_trichotomy k n with h | h | h
    · cases hf : f n
      · simp [ih, h, Nat.lt_succ_of_lt h]
      · rw [cond_true, Nat.add_comm, Nat.testBit_two_pow_add_gt h]
        simp [ih, h, Nat.lt_succ_of_lt h]
    · subst h
      cases hf : f k
      · simp [Nat.testBit_lt_two_pow hlt]
      · rw [cond_true, Nat.add_comm, Nat.testBit_two_pow_add_eq]
        simp [Nat.testBit_lt_two_pow hlt]
    · have : sumBits f n + (bif f n then 2 ^ n else 0) < 2 ^ k := by
        have h2 : 2 ^ (n + 1) ≤ 2 ^ k := Nat.pow_le_pow_right (by omega) h
        rw [pow_succ] at h2
        cases f n <;> simp <;> omega
      rw [Nat.testBit_lt_two_pow this]
      simp; omega

@[simp] theorem getLsbD_ofBits (f : Nat → Bool) (k : Nat) : (ofBits f).getLsbD k = (decide (k < 32) && f k) := by
  simp only [ofBits, BitVec.getLsbD_ofNat, testBit_sumBits]
  cases decide (k < 32) <;> simp

/-- Words with the same 32 bits are equal. -/
theorem word_ext {a b : Word} (h : ∀ k < 32, a.getLsbD k = b.getLsbD k) : a = b :=
  BitVec.eq_of_getLsbD_eq h

theorem getLsbD_getPins (pins : Word) (base : Index) (count k : Nat) (hk : k < 32) :
    (getPins pins base count).getLsbD k = (decide (k < count) && pins.getLsbD ((base.toNat + k) % 32)) := by
  rw [getPins, getLsbD_ofBits, decide_eq_true hk, Bool.true_and]

/-- A pin is bit `k` of the window exactly when it is pin `base + k`. -/
theorem windowBit_eq_iff (base : Index) {i k : Nat} (hi : i < 32) (hk : k < 32) :
    windowBit base i = k ↔ (base.toNat + k) % 32 = i := by
  have hb := base.isLt
  unfold windowBit
  omega

theorem windowBit_lt (base : Index) (i : Nat) : windowBit base i < 32 := Nat.mod_lt _ (by decide)

/-- R86, R87: everything a window write does. -/
theorem writeWindow_spec (latch data : Word) (base : Index) (count : Nat) :
    WindowWritten latch (writeWindow latch data base count) data.getLsbD base.toNat count := by
  refine ⟨fun k hk hc => ?_, fun i hi h => ?_⟩
  · have h32 : (base.toNat + k) % 32 < 32 := Nat.mod_lt _ (by decide)
    have hw : windowBit base ((base.toNat + k) % 32) = k := (windowBit_eq_iff base h32 hk).2 rfl
    rw [writeWindow, getLsbD_ofBits, decide_eq_true h32, Bool.true_and, hw, if_pos hc]
  · have hw : ¬ windowBit base i < count := fun hlt =>
      h _ (windowBit_lt base i) hlt ((windowBit_eq_iff base hi (windowBit_lt base i)).1 rfl)
    rw [writeWindow, getLsbD_ofBits, decide_eq_true hi, Bool.true_and, if_neg hw]

/-- A window write is determined by the bits it takes. -/
theorem WindowWritten.congr {b a : Word} {d e : Nat → Bool} {base count : Nat} (h : WindowWritten b a d base count)
    (hde : ∀ k < 32, k < count → d k = e k) : WindowWritten b a e base count :=
  ⟨fun k hk hc => (h.1 k hk hc).trans (hde k hk hc), h.2⟩

theorem getLsbD_mask (n k : Nat) (hk : k < 32) : (mask n).getLsbD k = decide (k < n) := by
  simp only [mask, BitVec.getLsbD_ofNat, hk, Nat.testBit_two_pow_sub_one, decide_true, Bool.true_and]

/-- R152, R153: the ISR after a shift, bit by bit. -/
theorem getLsbD_shiftInto (dir : ShiftDir) (isr data : Word) {n k : Nat} (hn : n ≤ 32) (hk : k < 32) :
    (shiftInto dir isr data n).getLsbD k = isrBitAfter dir isr data.getLsbD n k := by
  cases dir
  · simp only [shiftInto, isrBitAfter, BitVec.getLsbD_or, BitVec.getLsbD_shiftLeft, BitVec.getLsbD_and,
      getLsbD_mask n k hk, hk, decide_true, Bool.true_and]
    by_cases h : k < n <;> simp [h]
  · simp only [shiftInto, isrBitAfter, BitVec.getLsbD_or, BitVec.getLsbD_ushiftRight, BitVec.getLsbD_and,
      BitVec.getLsbD_shiftLeft, hk, decide_true, Bool.true_and]
    by_cases h : k < 32 - n
    · simp [h, Nat.add_comm n k]
    · have h1 : k - (32 - n) < 32 := by omega
      have h2 : k - (32 - n) < n := by omega
      have h3 : isr.getLsbD (n + k) = false := BitVec.getLsbD_of_ge _ _ (by omega)
      simp [h, getLsbD_mask n _ h1, h2, h3]

/-- R154, R155: the bits that leave the OSR. -/
theorem getLsbD_shiftedOut (dir : ShiftDir) (osr : Word) {n k : Nat} (hn : n ≤ 32) (hk : k < 32) :
    (shiftedOut dir osr n).getLsbD k = outBit dir osr n k := by
  cases dir
  · simp only [shiftedOut, outBit, BitVec.getLsbD_ushiftRight, BitVec.getLsbD_and, BitVec.getLsbD_not]
    by_cases h : k < n
    · have h1 : 32 - n + k < 32 := by omega
      have h2 : ¬ 32 - n + k < 32 - n := by omega
      simp only [getLsbD_mask _ _ h1, h, h1, h2, decide_true, decide_false, Bool.not_false, Bool.and_true,
        Bool.true_and]
    · have h1 : osr.getLsbD (32 - n + k) = false := BitVec.getLsbD_of_ge _ _ (by omega)
      simp [h, h1]
  · simp only [shiftedOut, outBit, BitVec.getLsbD_and, getLsbD_mask n k hk]
    exact Bool.and_comm _ _

/-- R154, R155: what is left in the OSR. -/
theorem getLsbD_shiftRest (dir : ShiftDir) (osr : Word) {n k : Nat} (hk : k < 32) :
    (shiftRest dir osr n).getLsbD k = osrBitAfter dir osr n k := by
  cases dir
  · simp only [shiftRest, osrBitAfter, BitVec.getLsbD_shiftLeft, hk, decide_true, Bool.true_and]
    by_cases h : k < n <;> simp [h]
  · simp [shiftRest, osrBitAfter, Nat.add_comm]

theorem getLsbD_bitReverse32 (w : Word) {k : Nat} (hk : k < 32) :
    (bitReverse32 w).getLsbD k = w.getLsbD (31 - k) := by
  rw [bitReverse32, getLsbD_ofBits, decide_eq_true hk, Bool.true_and]

theorem getLsbD_invert32 (w : Word) {k : Nat} (hk : k < 32) : (invert32 w).getLsbD k = !w.getLsbD k := by
  simp [invert32, hk]

/-- A 5-bit immediate in a word. -/
theorem getLsbD_immediate (data : BitVec 5) {k : Nat} (hk : k < 32) :
    (data.setWidth 32).getLsbD k = data.getLsbD k := by
  simp [hk]

/-! ### IRQ flags -/

theorem getLsbD_flagBit (i : BitVec 3) {k : Nat} (hk : k < 8) : (1#8 <<< i.toNat).getLsbD k = decide (k = i.toNat) := by
  have hi := i.isLt
  simp only [BitVec.getLsbD_shiftLeft, hk, decide_true, Bool.true_and, BitVec.getLsbD_one]
  by_cases h : k = i.toNat
  · simp [h]
  · simp [h]; omega

/-- R89: everything `IRQ.set` does to the flags. -/
theorem Shared.irqSet_spec (sh : Shared) (i : BitVec 3) : FlagMade sh.irq (sh.irqSet i).irq i.toNat true := by
  intro k hk
  rw [Shared.irqSet_irq, BitVec.getLsbD_or, getLsbD_flagBit i hk]
  by_cases h : k = i.toNat <;> simp [h]

/-- R90: everything `IRQ.clear` does to the flags. -/
theorem Shared.irqClear_spec (sh : Shared) (i : BitVec 3) : FlagMade sh.irq (sh.irqClear i).irq i.toNat false := by
  intro k hk
  rw [Shared.irqClear_irq, BitVec.getLsbD_and, BitVec.getLsbD_not, getLsbD_flagBit i hk]
  by_cases h : k = i.toNat <;> simp [h, hk]

/-- The flags after a set or clear are determined. -/
theorem FlagMade.unique {b a a' : BitVec 8} {n : Nat} {l : Bool} (h : FlagMade b a n l) (h' : FlagMade b a' n l) :
    a = a' :=
  BitVec.eq_of_getLsbD_eq fun k hk => (h k hk).trans (h' k hk).symm

/-- R165: the flag number. -/
theorem irqNum_toNat (num : Fin 4) (index : IrqIndex) : (irqNum num index).toNat = flagNumber num index := by
  cases index with
  | abs flag => rfl
  | rel offset =>
    have h := num.isLt
    simp only [irqNum, flagNumber, BitVec.toNat_setWidth, BitVec.toNat_add, BitVec.toNat_ofNat]
    omega

theorem irqGet_eq (irq : BitVec 8) (i : BitVec 3) : irqGet irq i = irq.getLsbD i.toNat := rfl

end Sys2Proof.Machine
end

