-- ==== Sys2Proof/Laws/Ops.lean ====
section
/-! SUPPORT. One lemma per shared operation of Machine/Flags.lean, Ops.lean, Operands.lean and the side-set, saying once
everything it can do. -/

namespace Sys2Proof.Machine

/-! ### Thresholds, full and empty -/

theorem threshold_eq (t : BitVec 5) : threshold t = thresholdValue t := by
  have h : t = 0 ↔ t.toNat = 0 := BitVec.toNat_eq
  simp only [threshold, thresholdValue, h]

theorem SM.isrFull_iff (m : SM) : m.isrFull = true ↔ thresholdValue m.shiftctrl.pushThresh ≤ m.isrShiftCount := by
  simp [SM.isrFull, threshold_eq]

theorem SM.osrEmpty_iff (m : SM) : m.osrEmpty = true ↔ thresholdValue m.shiftctrl.pullThresh ≤ m.osrShiftCount := by
  simp [SM.osrEmpty, threshold_eq]

theorem rxFull_iff (p : Params) (m : SM) : rxFull p m = true ↔ m.rxFifo.length = capRx p m.shiftctrl := by
  simp [rxFull]

theorem addCount_le (c n : Nat) : addCount c n ≤ 32 := Nat.min_le_right _ _

/-- R80: no FIFO is deeper than both together. -/
theorem capRx_le (p : Params) (c : ShiftCtrl) : capRx p c ≤ 2 * p.fifoDepth := by
  unfold capRx; split <;> omega

theorem capTx_le (p : Params) (c : ShiftCtrl) : capTx p c ≤ 2 * p.fifoDepth := by
  unfold capTx; split <;> omega

/-! ### Push and pull -/

/-- R158: a push asked for that the conditions do not allow. -/
theorem View.rxPush_idle {v : View} {ifFull block : Bool}
    (h : (ifFull && !(v.sm.isrFull && v.sm.shiftctrl.autopush)) = true) : v.rxPush ifFull block = (false, v) := by
  rw [View.rxPush, if_pos h]

/-- R158: a push that finds the RX FIFO full. -/
theorem View.rxPush_full {v : View} {ifFull block : Bool}
    (h : ¬ (ifFull && !(v.sm.isrFull && v.sm.shiftctrl.autopush)) = true) (hf : rxFull v.params v.sm = true) :
    v.rxPush ifFull block = (block, v) := by
  rw [View.rxPush, if_neg h, if_pos hf]

/-- R158: a push done. -/
theorem View.rxPush_done {v : View} {ifFull block : Bool}
    (h : ¬ (ifFull && !(v.sm.isrFull && v.sm.shiftctrl.autopush)) = true) (hf : ¬ rxFull v.params v.sm = true) :
    v.rxPush ifFull block = (false, (v.rxAppend v.sm.isr).setIsr 0 0) := by
  rw [View.rxPush, if_neg h, if_neg hf]

/-- R158: everything a push can do. -/
theorem View.rxPush_cases (v : View) (ifFull block : Bool) :
    ((ifFull && !(v.sm.isrFull && v.sm.shiftctrl.autopush)) = true ∧ v.rxPush ifFull block = (false, v)) ∨
    (¬ (ifFull && !(v.sm.isrFull && v.sm.shiftctrl.autopush)) = true ∧ rxFull v.params v.sm = true ∧
      v.rxPush ifFull block = (block, v)) ∨
    (¬ (ifFull && !(v.sm.isrFull && v.sm.shiftctrl.autopush)) = true ∧ ¬ rxFull v.params v.sm = true ∧
      v.rxPush ifFull block = (false, (v.rxAppend v.sm.isr).setIsr 0 0)) := by
  by_cases h : (ifFull && !(v.sm.isrFull && v.sm.shiftctrl.autopush)) = true
  · exact .inl ⟨h, View.rxPush_idle h⟩
  · by_cases hf : rxFull v.params v.sm = true
    · exact .inr (.inl ⟨h, hf, View.rxPush_full h hf⟩)
    · exact .inr (.inr ⟨h, hf, View.rxPush_done h hf⟩)

/-- The state after a pull that takes the word `w` and leaves `rest`. -/
def View.pulled (v : View) (w : Word) (rest : List Word) : View :=
  { v with sm := { v.sm with osr := w, osrShiftCount := 0, txFifo := rest } }

@[simp] theorem View.pulled_num (v : View) (w : Word) (r : List Word) : (v.pulled w r).num = v.num := rfl
@[simp] theorem View.pulled_params (v : View) (w : Word) (r : List Word) : (v.pulled w r).params = v.params := rfl
@[simp] theorem View.pulled_shared (v : View) (w : Word) (r : List Word) : (v.pulled w r).shared = v.shared := rfl
@[simp] theorem View.pulled_sm (v : View) (w : Word) (r : List Word) :
    (v.pulled w r).sm = { v.sm with osr := w, osrShiftCount := 0, txFifo := r } := rfl

/-- R160: a pull asked for that the conditions do not allow. -/
theorem View.txPull_idle {v : View} {ifEmpty block : Bool}
    (h : (ifEmpty && !(v.sm.osrEmpty && v.sm.shiftctrl.autopull)) = true) : v.txPull ifEmpty block = (false, v) := by
  rw [View.txPull, if_pos h]

/-- R160, R161: a pull that finds the TX FIFO empty. -/
theorem View.txPull_empty {v : View} {ifEmpty block : Bool}
    (h : ¬ (ifEmpty && !(v.sm.osrEmpty && v.sm.shiftctrl.autopull)) = true) (he : v.sm.txFifo = []) :
    v.txPull ifEmpty block = (block, if block then v else v.setOsr v.sm.x 0) := by
  rw [View.txPull, if_neg h, he]

/-- R160: a pull done. -/
theorem View.txPull_done {v : View} {ifEmpty block : Bool} {w : Word} {rest : List Word}
    (h : ¬ (ifEmpty && !(v.sm.osrEmpty && v.sm.shiftctrl.autopull)) = true) (he : v.sm.txFifo = w :: rest) :
    v.txPull ifEmpty block = (false, v.pulled w rest) := by
  rw [View.txPull, if_neg h, he]; rfl

/-- R160, R161: everything a pull can do. -/
theorem View.txPull_cases (v : View) (ifEmpty block : Bool) :
    ((ifEmpty && !(v.sm.osrEmpty && v.sm.shiftctrl.autopull)) = true ∧ v.txPull ifEmpty block = (false, v)) ∨
    (¬ (ifEmpty && !(v.sm.osrEmpty && v.sm.shiftctrl.autopull)) = true ∧ v.sm.txFifo = [] ∧
      v.txPull ifEmpty block = (block, if block then v else v.setOsr v.sm.x 0)) ∨
    (¬ (ifEmpty && !(v.sm.osrEmpty && v.sm.shiftctrl.autopull)) = true ∧ ∃ w rest, v.sm.txFifo = w :: rest ∧
      v.txPull ifEmpty block = (false, v.pulled w rest)) := by
  by_cases h : (ifEmpty && !(v.sm.osrEmpty && v.sm.shiftctrl.autopull)) = true
  · exact .inl ⟨h, View.txPull_idle h⟩
  · cases he : v.sm.txFifo with
    | nil => exact .inr (.inl ⟨h, rfl, View.txPull_empty h he⟩)
    | cons w rest => exact .inr (.inr ⟨h, w, rest, rfl, View.txPull_done h he⟩)

/-- The condition of R158 step 2, as the statements say it. -/
theorem SM.pushIdle_iff (m : SM) (ifFull : Bool) :
    (ifFull && !(m.isrFull && m.shiftctrl.autopush)) = true ↔ m.pushWanted ifFull = false := by
  have h := m.isrFull_iff
  unfold SM.pushWanted
  by_cases ht : thresholdValue m.shiftctrl.pushThresh ≤ m.isrShiftCount
  · rw [h.2 ht]; cases ifFull <;> cases m.shiftctrl.autopush <;> simp [ht]
  · rw [Bool.eq_false_iff.2 (mt h.1 ht)]; cases ifFull <;> cases m.shiftctrl.autopush <;> simp [ht]

/-- The condition of R160 step 2, as the statements say it. -/
theorem SM.pullIdle_iff (m : SM) (ifEmpty : Bool) :
    (ifEmpty && !(m.osrEmpty && m.shiftctrl.autopull)) = true ↔ m.pullWanted ifEmpty = false := by
  have h := m.osrEmpty_iff
  unfold SM.pullWanted
  by_cases ht : thresholdValue m.shiftctrl.pullThresh ≤ m.osrShiftCount
  · rw [h.2 ht]; cases ifEmpty <;> cases m.shiftctrl.autopull <;> simp [ht]
  · rw [Bool.eq_false_iff.2 (mt h.1 ht)]; cases ifEmpty <;> cases m.shiftctrl.autopull <;> simp [ht]

theorem SM.afterPull_nil {m : SM} (h : m.txFifo = []) : m.afterPull = { m with osr := m.x, osrShiftCount := 0 } := by
  unfold SM.afterPull; rw [h]

theorem SM.afterPull_cons {m : SM} {w : Word} {rest : List Word} (h : m.txFifo = w :: rest) :
    m.afterPull = { m with osr := w, osrShiftCount := 0, txFifo := rest } := by
  unfold SM.afterPull; rw [h]

/-- R221: everything the autopull of an OUT does to the SM. -/
theorem View.txPull_autopull (v : View) : (v.txPull true true).2 = { v with sm := v.sm.afterAutopull } := by
  unfold SM.afterAutopull
  rcases v.txPull_cases true true with ⟨h, e⟩ | ⟨h, hf, e⟩ | ⟨h, w, r, hf, e⟩ <;> rw [e] <;> rw [SM.pullIdle_iff] at h
  · simp [h]
  · simp [hf]
  · rw [Bool.not_eq_false] at h
    rw [h, hf]
    simp only [List.isEmpty_cons, Bool.not_false, Bool.and_true, if_pos, SM.afterPull_cons hf]
    rfl

/-- R221: when the autopull of an OUT makes it wait. -/
theorem View.txPull_waits (v : View) :
    (v.txPull true true).1 = (v.sm.pullWanted true && v.sm.txFifo.isEmpty) := by
  rcases v.txPull_cases true true with ⟨h, e⟩ | ⟨h, hf, e⟩ | ⟨h, w, r, hf, e⟩ <;> rw [e] <;> rw [SM.pullIdle_iff] at h
  · simp [h]
  · simp [h, hf]
  · simp [hf]

/-! ### Masks as numbers -/

theorem mask_toNat {n : Nat} (hn : n ≤ 32) : (mask n).toNat = 2 ^ n - 1 := by
  have h : 2 ^ n ≤ 2 ^ 32 := Nat.pow_le_pow_right (by omega) hn
  rw [mask, BitVec.toNat_ofNat, Nat.mod_eq_of_lt]
  omega

theorem and_mask_toNat (d : Word) {n : Nat} (hn : n ≤ 32) : (d &&& mask n).toNat = d.toNat % 2 ^ n := by
  rw [BitVec.toNat_and, mask_toNat hn, Nat.and_two_pow_sub_one_eq_mod]

/-! ### Shifts and the injection slot -/

theorem View.shiftIntoIsr_ok (v : View) (data : Word) {n : Nat} (hn : 1 ≤ n ∧ n ≤ 32) :
    v.shiftIntoIsr data n =
      .ok (v.setIsr (shiftInto v.sm.shiftctrl.inShiftdir v.sm.isr data n) (addCount v.sm.isrShiftCount n)) := by
  rw [View.shiftIntoIsr, if_pos (by simpa [shiftAmountOk] using hn)]

theorem View.shiftIntoIsr_error (v : View) (data : Word) {n : Nat} (hn : ¬ (1 ≤ n ∧ n ≤ 32)) :
    v.shiftIntoIsr data n = .error (.internalInvariantViolation (.shiftAmount n)) := by
  rw [View.shiftIntoIsr, if_neg (by simpa [shiftAmountOk] using hn)]

theorem View.shiftOutOfOsr_ok (v : View) {n : Nat} (hn : 1 ≤ n ∧ n ≤ 32) :
    v.shiftOutOfOsr n =
      .ok (shiftedOut v.sm.shiftctrl.outShiftdir v.sm.osr n,
        v.setOsr (shiftRest v.sm.shiftctrl.outShiftdir v.sm.osr n) (addCount v.sm.osrShiftCount n)) := by
  rw [View.shiftOutOfOsr, if_pos (by simpa [shiftAmountOk] using hn)]

theorem View.shiftOutOfOsr_error (v : View) {n : Nat} (hn : ¬ (1 ≤ n ∧ n ≤ 32)) :
    v.shiftOutOfOsr n = .error (.internalInvariantViolation (.shiftAmount n)) := by
  rw [View.shiftOutOfOsr, if_neg (by simpa [shiftAmountOk] using hn)]

theorem View.inject_ok {v : View} (w : InstrWord) (h : v.sm.pendingInstruction = none) :
    v.inject w = .ok { v with sm := { v.sm with pendingInstruction := some w } } := by
  simp [View.inject, h]

theorem View.inject_error {v : View} (w : InstrWord) (h : v.sm.pendingInstruction ≠ none) :
    v.inject w = .error (.internalInvariantViolation .secondPendingInstruction) := by
  simp [View.inject, Option.isSome_iff_ne_none, h]

/-! ### Sources -/

theorem View.pinValues_view (s : State) (l : Option (BitVec 3)) (i : Nat) :
    (s.view.setIrqWait l).pinValues.getLsbD i = s.pinRead i := by
  unfold View.pinValues State.pinRead
  simp only [View.setIrqWait_params, View.setIrqWait_shared, State.view_params, State.view_shared]
  cases s.params.pinRead <;> rfl

theorem View.readInputPins_bit (s : State) (l : Option (BitVec 3)) {k : Nat} (hk : k < 32) :
    (s.view.setIrqWait l).readInputPins.getLsbD k = s.pinRead (((s.sm s.cur).pinctrl.inBase.toNat + k) % 32) := by
  rw [View.readInputPins, getLsbD_getPins _ _ _ _ hk, decide_eq_true hk, Bool.true_and, View.pinValues_view]; rfl

/-- R212 to R217: the sources of IN. -/
theorem View.inValue_bit (s : State) (l : Option (BitVec 3)) (src : InSrc) {k : Nat} (hk : k < 32) :
    ((s.view.setIrqWait l).inValue src).getLsbD k = inBit s src k := by
  cases src <;> simp only [View.inValue, inBit, View.setIrqWait_sm, State.view_sm]
  · exact View.readInputPins_bit s l hk
  · exact BitVec.getLsbD_zero

theorem SM.statusValue_bit (m : SM) {k : Nat} (hk : k < 32) : m.statusValue.getLsbD k =
    decide ((if m.execctrl.statusSel then m.rxFifo.length else m.txFifo.length) < m.execctrl.statusN.toNat) := by
  simp only [SM.statusValue]
  by_cases h : (if m.execctrl.statusSel then m.rxFifo.length else m.txFifo.length) < m.execctrl.statusN.toNat
  · rw [if_pos h, decide_eq_true h, BitVec.getLsbD_allOnes, decide_eq_true hk]
  · rw [if_neg h, decide_eq_false h]; exact BitVec.getLsbD_zero

/-- R252 to R258: the sources of MOV. -/
theorem View.movValue_bit (s : State) (l : Option (BitVec 3)) (src : MovSrc) {k : Nat} (hk : k < 32) :
    ((s.view.setIrqWait l).movValue src).getLsbD k = movBit s src k := by
  cases src <;> simp only [View.movValue, movBit, View.setIrqWait_sm, State.view_sm]
  · exact View.readInputPins_bit s l hk
  · exact BitVec.getLsbD_zero
  · exact SM.statusValue_bit _ hk

/-- R259: the value a MOV writes. -/
theorem View.movApply_bit (s : State) (l : Option (BitVec 3)) (op : MovOp) (src : MovSrc) {k : Nat} (hk : k < 32) :
    (movApply op ((s.view.setIrqWait l).movValue src)).getLsbD k = movResultBit s op src k := by
  cases op
  · exact View.movValue_bit s l src hk
  · rw [movApply, getLsbD_invert32 _ hk, View.movValue_bit s l src hk]; rfl
  · rw [movApply, getLsbD_bitReverse32 _ hk, View.movValue_bit s l src (by omega)]; rfl

/-! ### Side-set -/

theorem sideSetOf_none_iff (m : SM) (df : BitVec 5) :
    sideSetOf m.pinctrl.sidesetCount m.execctrl.sideEn df = none ↔ ¬ SidePresent m df := by
  unfold sideSetOf SidePresent
  have h0 : m.pinctrl.sidesetCount = 0 ↔ m.pinctrl.sidesetCount.toNat = 0 := BitVec.toNat_eq
  by_cases hc : m.pinctrl.sidesetCount.toNat = 0
  · rw [if_pos (h0.2 hc)]
    simp [hc]
  · rw [if_neg (mt h0.1 hc)]
    cases he : m.execctrl.sideEn <;> cases hd : df.getLsbD 4 <;> simp [hc]

theorem sideSetOf_bits : ∀ (c : BitVec 3) (e : Bool) (df v : BitVec 5), c.toNat ≤ 5 → sideSetOf c e df = some v →
    ∀ k < 5, k < sideCount c e → v.getLsbD k = df.getLsbD (5 - c.toNat + k) := by
  intro c e df v hc h k hk hn
  unfold sideSetOf at h
  unfold sideCount at hn
  split_ifs at h with h1 h2 h3
  · obtain rfl := Option.some.inj h
    simp
  · obtain rfl := Option.some.inj h
    cases e
    · simp at h2
    · have h4 : 5 - c.toNat + k < 4 := by simp at hn; omega
      have h5 : (15#5).getLsbD (5 - c.toNat + k) = true := by
        revert h4; generalize 5 - c.toNat + k = j; intro h4
        interval_cases j <;> rfl
      simp only [BitVec.getLsbD_ushiftRight, BitVec.getLsbD_and]
      rw [show (0x0F : BitVec 5) = 15#5 from rfl, h5, Bool.and_true]

theorem sideCount_eq (m : SM) : sideCount m.pinctrl.sidesetCount m.execctrl.sideEn = sidePins m := by
  unfold sideCount sidePins
  cases m.execctrl.sideEn <;> simp

theorem sidePins_le (m : SM) (h : m.pinctrl.sidesetCount.toNat ≤ 5) : sidePins m ≤ 5 := by
  unfold sidePins; split <;> omega

@[simp] theorem View.driveSideSet_num (v : View) (x : BitVec 5) : (v.driveSideSet x).num = v.num := by
  simp only [View.driveSideSet]; split <;> rfl
@[simp] theorem View.driveSideSet_params (v : View) (x : BitVec 5) : (v.driveSideSet x).params = v.params := by
  simp only [View.driveSideSet]; split <;> rfl
@[simp] theorem View.driveSideSet_sm (v : View) (x : BitVec 5) : (v.driveSideSet x).sm = v.sm := by
  simp only [View.driveSideSet]; split <;> rfl
@[simp] theorem View.driveSideSet_irq (v : View) (x : BitVec 5) : (v.driveSideSet x).shared.irq = v.shared.irq := by
  simp only [View.driveSideSet]; split <;> rfl
@[simp] theorem View.driveSideSet_imem (v : View) (x : BitVec 5) : (v.driveSideSet x).shared.imem = v.shared.imem := by
  simp only [View.driveSideSet]; split <;> rfl
@[simp] theorem View.driveSideSet_pinIn (v : View) (x : BitVec 5) : (v.driveSideSet x).shared.pinIn = v.shared.pinIn := by
  simp only [View.driveSideSet]; split <;> rfl

@[simp] theorem View.sideSet_num (v : View) (df : BitVec 5) : (v.sideSet df).num = v.num := by
  unfold View.sideSet; split <;> simp
@[simp] theorem View.sideSet_params (v : View) (df : BitVec 5) : (v.sideSet df).params = v.params := by
  unfold View.sideSet; split <;> simp
@[simp] theorem View.sideSet_sm (v : View) (df : BitVec 5) : (v.sideSet df).sm = v.sm := by
  unfold View.sideSet; split <;> simp
@[simp] theorem View.sideSet_irq (v : View) (df : BitVec 5) : (v.sideSet df).shared.irq = v.shared.irq := by
  unfold View.sideSet; split <;> simp
@[simp] theorem View.sideSet_imem (v : View) (df : BitVec 5) : (v.sideSet df).shared.imem = v.shared.imem := by
  unfold View.sideSet; split <;> simp
@[simp] theorem View.sideSet_pinIn (v : View) (df : BitVec 5) : (v.sideSet df).shared.pinIn = v.shared.pinIn := by
  unfold View.sideSet; split <;> simp

/-- The bits a side-set writes are those of `df`. -/
theorem sideSet_window {m : SM} {df x : BitVec 5} {b a : Word} {base : Nat} (hc : m.pinctrl.sidesetCount.toNat ≤ 5)
    (hx : sideSetOf m.pinctrl.sidesetCount m.execctrl.sideEn df = some x)
    (h : WindowWritten b a (x.setWidth 32).getLsbD base (sidePins m)) :
    WindowWritten b a (fun k => df.getLsbD (5 - m.pinctrl.sidesetCount.toNat + k)) base (sidePins m) := by
  refine h.congr fun k hk hn => ?_
  have h5 := sidePins_le m hc
  rw [BitVec.getLsbD_setWidth, decide_eq_true hk, Bool.true_and]
  exact sideSetOf_bits _ _ _ _ hc hx k (by omega) (by rw [sideCount_eq]; exact hn)

/-- R292 step 6, R295: everything the side-set does to the latches. -/
theorem View.sideSet_spec (v : View) (df : BitVec 5) :
    SideSetApplied v.sm df v.shared.pinLevel v.shared.pinDir
      (v.sideSet df).shared.pinLevel (v.sideSet df).shared.pinDir := by
  cases hx : sideSetOf v.sm.pinctrl.sidesetCount v.sm.execctrl.sideEn df with
  | none =>
    have hn := (sideSetOf_none_iff v.sm df).1 hx
    have he : v.sideSet df = v := by rw [View.sideSet, hx]
    rw [he]
    exact ⟨fun _ => ⟨rfl, rfl⟩, fun h => absurd h hn, fun h => absurd h hn⟩
  | some x =>
    have hn : SidePresent v.sm df := by
      by_contra h
      rw [(sideSetOf_none_iff v.sm df).2 h] at hx
      cases hx
    have he : v.sideSet df = v.driveSideSet x := by rw [View.sideSet, hx]
    rw [he]
    refine ⟨fun h => absurd hn h, fun _ hc hd => ?_, fun _ hc hd => ?_⟩
    · have e : v.driveSideSet x =
          v.setPins (x.setWidth 32) v.sm.pinctrl.sidesetBase (sidePins v.sm) := by
        rw [View.driveSideSet, hd, sideCount_eq]
      rw [e]
      exact ⟨rfl, sideSet_window hc hx (writeWindow_spec _ _ _ _)⟩
    · have e : v.driveSideSet x =
          v.setPinDirs (x.setWidth 32) v.sm.pinctrl.sidesetBase (sidePins v.sm) := by
        rw [View.driveSideSet, hd, sideCount_eq]
      rw [e]
      exact ⟨rfl, sideSet_window hc hx (writeWindow_spec _ _ _ _)⟩

theorem delayOf_eq (c : BitVec 3) (df : BitVec 5) : delayOf c df = df.toNat % 2 ^ (5 - c.toNat) := by
  have h : 2 ^ (5 - c.toNat) - 1 < 2 ^ 5 := by
    have : 2 ^ (5 - c.toNat) ≤ 2 ^ 5 := Nat.pow_le_pow_right (by omega) (by omega)
    omega
  rw [delayOf, delayMask, BitVec.toNat_and, BitVec.toNat_ofNat, Nat.mod_eq_of_lt h, Nat.and_two_pow_sub_one_eq_mod]

end Sys2Proof.Machine
end

