-- ==== Sys2Proof/Laws/Engine.lean ====
section
/-! SUPPORT. What steps 6 to 8 of the tick leave behind (49_engine.md R292), and the inversion of a retired
instruction. -/

namespace Sys2Proof.Machine

@[simp] theorem View.updatePc_shared (v : View) (r : ResultState) : (v.updatePc r).shared = v.shared := by
  cases r <;> rfl
@[simp] theorem View.updatePc_params (v : View) (r : ResultState) : (v.updatePc r).params = v.params := by
  cases r <;> rfl
@[simp] theorem View.armDelay_shared (v : View) (df : BitVec 5) (r : ResultState) :
    (v.armDelay df r).shared = v.shared := by
  cases r <;> rfl

theorem View.updatePc_sm (v : View) (r : ResultState) :
    (v.updatePc r).sm = { v.sm with pc := if r = .complete then v.sm.nextPc else v.sm.pc } := by
  cases r <;> rfl

theorem View.armDelay_sm (v : View) (df : BitVec 5) (r : ResultState) : (v.armDelay df r).sm =
    { v.sm with pendingDelay := if r = .stall then v.sm.pendingDelay
        else df.toNat % 2 ^ (5 - v.sm.pinctrl.sidesetCount.toNat) } := by
  cases r <;> simp [View.armDelay, delayOf_eq]

/-- R292 steps 7 and 8: the SM after the instruction. -/
theorem View.finish_sm (v : View) (df : BitVec 5) (r : ResultState) : (v.finish df r).sm =
    { v.sm with
      pc := if r = .complete then
          (if v.sm.pc = v.sm.execctrl.wrapTop then v.sm.execctrl.wrapBottom else v.sm.pc + 1)
        else v.sm.pc
      pendingDelay := if r = .stall then v.sm.pendingDelay
        else df.toNat % 2 ^ (5 - v.sm.pinctrl.sidesetCount.toNat) } := by
  rw [View.finish, View.armDelay_sm, View.updatePc_sm, View.sideSet_sm]
  rfl

@[simp] theorem View.finish_shared (v : View) (df : BitVec 5) (r : ResultState) :
    (v.finish df r).shared = (v.sideSet df).shared := by
  rw [View.finish, View.armDelay_shared, View.updatePc_shared]

/-- R292 steps 6 to 8 on the whole machine, after a body that left the memory and the pin inputs alone. -/
theorem retired_putView_finish {s : State} {v : View} (df : BitVec 5) (r : ResultState)
    (him : v.shared.imem = s.shared.imem) (hpi : v.shared.pinIn = s.shared.pinIn) :
    Retired df r s v.sm v.shared (s.putView (v.finish df r)) where
  sm := by rw [State.sm_putView_cur, View.finish_sm]
  others n hn := State.sm_putView_ne _ _ hn
  side := by
    rw [State.putView_shared, View.finish_shared]
    exact v.sideSet_spec df
  irq := by rw [State.putView_shared, View.finish_shared, View.sideSet_irq]
  pinIn := by rw [State.putView_shared, View.finish_shared, View.sideSet_pinIn, hpi]
  bytes a := by rw [State.putView_shared, View.finish_shared, View.sideSet_imem, him]
  imem := by rw [State.putView_shared, View.finish_shared, View.sideSet_imem, him]
  params := rfl
  cur := rfl
  events := rfl
  reply := rfl

theorem settle_ok (df : BitVec 5) (s : State) (v : View) (r : ResultState) :
    settle df s (.ok (v, r)) = .next (s.putView (v.finish df r)) := rfl

/-- Everything `settle` can answer. -/
theorem settle_next {df : BitVec 5} {s t : State} {o : Except Fault (View × ResultState)}
    (h : settle df s o = .next t) : ∃ v r, o = .ok (v, r) ∧ t = s.putView (v.finish df r) := by
  match o, h with
  | .ok (v, r), h => exact ⟨v, r, rfl, by injection h with h; exact h.symm⟩

/-- An instruction whose body answers `v` and `r`. -/
theorem retire_of_body {df : BitVec 5} {body : Body} {s : State} {v : View} {r : ResultState}
    (hb : body (s.view.setIrqWait none) = .ok (v, r)) (him : v.shared.imem = s.shared.imem)
    (hpi : v.shared.pinIn = s.shared.pinIn) :
    ∃ t, retire df body s = .next t ∧ Retired df r s v.sm v.shared t :=
  ⟨_, by rw [retire, hb, settle_ok], retired_putView_finish df r him hpi⟩

/-- IRQ with `clr = 0` and `wait = 1`, whose body answers `v` and `r`. -/
theorem retireKeepingLatch_of_body {df : BitVec 5} {body : Body} {s : State} {v : View} {r : ResultState}
    (hb : body s.view = .ok (v, r)) (him : v.shared.imem = s.shared.imem)
    (hpi : v.shared.pinIn = s.shared.pinIn) :
    ∃ t, retireKeepingLatch df body s = .next t ∧ Retired df r s v.sm v.shared t :=
  ⟨_, by rw [retireKeepingLatch, hb, settle_ok], retired_putView_finish df r him hpi⟩

end Sys2Proof.Machine
end

