-- ==== Sys2Proof/Laws/Dispatch.lean ====
section
/-! SUPPORT. `exec` arranged by the form of the instruction, and what every body leaves unchanged. -/

namespace Sys2Proof.Machine

/-- The condition and the side effect of a JMP (R181 to R188). -/
def jumpBody (cond : JmpCond) (address : Index) : Body :=
  match cond with
  | .always => fun v => jumpIf true address v
  | .notX => fun v => jumpIf (v.sm.x == 0) address v
  | .xDec => fun v => jumpIf (v.sm.x != 0) address (v.setX (v.sm.x - 1))
  | .notY => fun v => jumpIf (v.sm.y == 0) address v
  | .yDec => fun v => jumpIf (v.sm.y != 0) address (v.setY (v.sm.y - 1))
  | .xNeY => fun v => jumpIf (v.sm.x != v.sm.y) address v
  | .pin => fun v => jumpIf (v.getBit v.sm.execctrl.jmpPin) address v
  | .notOsre => fun v => jumpIf (!v.sm.osrEmpty) address v

/-- A WAIT by its source (R201 to R203). -/
def waitBody (polarity : Bool) (src : WaitSrc) : Body :=
  match src with
  | .gpio index => fun v => waitFor polarity (v.getBit index) (fun v => v) v
  | .pin index => fun v => waitFor polarity (v.getBit (v.sm.pinctrl.inBase + index)) (fun v => v) v
  | .irq index => waitForIrq polarity index

/-- PUSH (R240). -/
def pushBody (ifFull block : Bool) : Body := fun v =>
  let p := v.rxPush ifFull block
  .ok (p.2, if p.1 then .stall else .complete)

/-- PULL (R241). -/
def pullBody (ifEmpty block : Bool) : Body := fun v =>
  let p := v.txPull ifEmpty block
  .ok (p.2, if p.1 then .stall else .complete)

/-- The body of a legal instruction that is not IRQ WAIT; the last two arms are not used. -/
def bodyOf (f : Form) : Body :=
  match f with
  | .jmp cond address => jumpBody cond address
  | .wait polarity src => waitBody polarity src
  | .input src n => shiftIn src n
  | .output dst n => shiftOut dst n
  | .push ifFull block => pushBody ifFull block
  | .pull ifEmpty block => pullBody ifEmpty block
  | .mov dst op src => move dst op src
  | .irqSet index => setFlag index
  | .irqClear wait index => clearFlag wait index
  | .set dst data => setWrite dst data
  | .irqWait index => setAndWait index
  | .reserved _ _ => fun v => .ok (v, .stall)

/-- What an instruction does, by its form. -/
def meaningOf (f : Form) (df : BitVec 5) (s : State) : Host.Outcome State Fault Refusal :=
  match f with
  | .reserved row lsb => decodeError (reservedOpcode row ++ df ++ lsb) s
  | .irqWait index => retireKeepingLatch df (setAndWait index) s
  | .jmp cond address => retire df (bodyOf (.jmp cond address)) s
  | .wait polarity src => retire df (bodyOf (.wait polarity src)) s
  | .input src n => retire df (bodyOf (.input src n)) s
  | .output dst n => retire df (bodyOf (.output dst n)) s
  | .push ifFull block => retire df (bodyOf (.push ifFull block)) s
  | .pull ifEmpty block => retire df (bodyOf (.pull ifEmpty block)) s
  | .mov dst op src => retire df (bodyOf (.mov dst op src)) s
  | .irqSet index => retire df (bodyOf (.irqSet index)) s
  | .irqClear wait index => retire df (bodyOf (.irqClear wait index)) s
  | .set dst data => retire df (bodyOf (.set dst data)) s

/-- The arms of `exec`, by form. -/
theorem exec_eq_meaning (i : Instr) (s : State) : exec i s = meaningOf i.form i.df s := by
  cases i <;> rfl

end Sys2Proof.Machine
end

