-- ==== Sys2Proof/Laws/Bodies.lean ====
section
/-! SUPPORT. What every body of an instruction leaves unchanged, and that it keeps an SM legal; the inversion of
`exec`. -/

namespace Sys2Proof.Machine

/-- What no body of an instruction writes. -/
structure BodyFrame (v w : View) : Prop where
  num : w.num = v.num
  params : w.params = v.params
  imem : w.shared.imem = v.shared.imem
  pinIn : w.shared.pinIn = v.shared.pinIn
  enabled : w.sm.enabled = v.sm.enabled
  clockEnabled : w.sm.clockEnabled = v.sm.clockEnabled
  pendingDelay : w.sm.pendingDelay = v.sm.pendingDelay
  fault : w.sm.fault = v.sm.fault
  execctrl : w.sm.execctrl = v.sm.execctrl
  shiftctrl : w.sm.shiftctrl = v.sm.shiftctrl
  pinctrl : w.sm.pinctrl = v.sm.pinctrl

theorem BodyFrame.refl (v : View) : BodyFrame v v := ⟨rfl, rfl, rfl, rfl, rfl, rfl, rfl, rfl, rfl, rfl, rfl⟩

theorem BodyFrame.trans {u v w : View} (a : BodyFrame u v) (b : BodyFrame v w) : BodyFrame u w :=
  ⟨b.num.trans a.num, b.params.trans a.params, b.imem.trans a.imem, b.pinIn.trans a.pinIn,
    b.enabled.trans a.enabled, b.clockEnabled.trans a.clockEnabled, b.pendingDelay.trans a.pendingDelay,
    b.fault.trans a.fault, b.execctrl.trans a.execctrl, b.shiftctrl.trans a.shiftctrl, b.pinctrl.trans a.pinctrl⟩

theorem View.setIsr_frame (v : View) (w : Word) (n : Nat) : BodyFrame v (v.setIsr w n) :=
  ⟨rfl, rfl, rfl, rfl, rfl, rfl, rfl, rfl, rfl, rfl, rfl⟩

theorem View.setOsr_frame (v : View) (w : Word) (n : Nat) : BodyFrame v (v.setOsr w n) :=
  ⟨rfl, rfl, rfl, rfl, rfl, rfl, rfl, rfl, rfl, rfl, rfl⟩

theorem View.rxPush_frame (v : View) (a b : Bool) : BodyFrame v (v.rxPush a b).2 := by
  rcases v.rxPush_cases a b with ⟨-, h⟩ | ⟨-, -, h⟩ | ⟨-, -, h⟩ <;> rw [h] <;>
    exact ⟨rfl, rfl, rfl, rfl, rfl, rfl, rfl, rfl, rfl, rfl, rfl⟩

theorem View.txPull_frame (v : View) (a b : Bool) : BodyFrame v (v.txPull a b).2 := by
  rcases v.txPull_cases a b with ⟨-, h⟩ | ⟨-, -, h⟩ | ⟨-, w, rest, -, h⟩ <;> rw [h]
  · exact .refl v
  · cases b <;> exact ⟨rfl, rfl, rfl, rfl, rfl, rfl, rfl, rfl, rfl, rfl, rfl⟩
  · exact ⟨rfl, rfl, rfl, rfl, rfl, rfl, rfl, rfl, rfl, rfl, rfl⟩

theorem View.inject_frame {v v' : View} {w : InstrWord} (h : v.inject w = .ok v') : BodyFrame v v' := by
  by_cases hp : v.sm.pendingInstruction = none
  · rw [View.inject_ok w hp] at h
    injection h with h; subst h
    exact ⟨rfl, rfl, rfl, rfl, rfl, rfl, rfl, rfl, rfl, rfl, rfl⟩
  · rw [View.inject_error w hp] at h; cases h

theorem View.outDeliver_frame {v v' : View} {dst : OutDst} {data : Word} {n : Nat}
    (h : v.outDeliver dst data n = .ok v') : BodyFrame v v' := by
  cases dst
  case exec => exact View.inject_frame h
  all_goals
    simp only [View.outDeliver] at h
    injection h with h; subst h
    exact ⟨rfl, rfl, rfl, rfl, rfl, rfl, rfl, rfl, rfl, rfl, rfl⟩

/-- Everything an OUT that answers has done: a shift of 1 to 32 bits, a delivery, a pull. -/
theorem shiftOut_ok {dst : OutDst} {n : Nat} {v v' : View} {r : ResultState} (h : shiftOut dst n v = .ok (v', r)) :
    (1 ≤ n ∧ n ≤ 32) ∧ ∃ v2,
      View.outDeliver
        (v.setOsr (shiftRest v.sm.shiftctrl.outShiftdir v.sm.osr n) (addCount v.sm.osrShiftCount n)) dst
        (shiftedOut v.sm.shiftctrl.outShiftdir v.sm.osr n) n = .ok v2 ∧
      v' = (v2.txPull true true).2 ∧ r = outResult dst (v2.txPull true true).1 := by
  by_cases hn : 1 ≤ n ∧ n ≤ 32
  · refine ⟨hn, ?_⟩
    simp only [shiftOut, View.shiftOutOfOsr_ok v hn] at h
    split at h
    · cases h
    · next v2 hd =>
      injection h with h; injection h with h1 h2
      exact ⟨v2, hd, h1.symm, h2.symm⟩
  · simp only [shiftOut, View.shiftOutOfOsr_error v hn] at h; cases h

/-- Everything an IN that answers has done: a shift of 1 to 32 bits, a push. -/
theorem shiftIn_ok {src : InSrc} {n : Nat} {v v' : View} {r : ResultState} (h : shiftIn src n v = .ok (v', r)) :
    (1 ≤ n ∧ n ≤ 32) ∧ ∃ v1,
      v1 = v.setIsr (shiftInto v.sm.shiftctrl.inShiftdir v.sm.isr (v.inValue src) n) (addCount v.sm.isrShiftCount n) ∧
      v' = (v1.rxPush true true).2 ∧ r = if (v1.rxPush true true).1 then .stall else .complete := by
  by_cases hn : 1 ≤ n ∧ n ≤ 32
  · refine ⟨hn, _, rfl, ?_⟩
    simp only [shiftIn, View.shiftIntoIsr_ok v _ hn] at h
    injection h with h; injection h with h1 h2
    exact ⟨h1.symm, h2.symm⟩
  · simp only [shiftIn, View.shiftIntoIsr_error v _ hn] at h; cases h

theorem jumpIf_frame {taken : Bool} {a : Index} {v v' : View} {r : ResultState} (h : jumpIf taken a v = .ok (v', r)) :
    BodyFrame v v' := by
  injection h with h
  cases taken
  · injection h with h _; subst h; exact .refl v
  · injection h with h _; subst h; exact ⟨rfl, rfl, rfl, rfl, rfl, rfl, rfl, rfl, rfl, rfl, rfl⟩

theorem waitFor_frame {p b : Bool} {after : View → View} {v v' : View} {r : ResultState}
    (ha : BodyFrame v (after v)) (h : waitFor p b after v = .ok (v', r)) : BodyFrame v v' := by
  injection h with h
  split at h
  · injection h with h _; subst h; exact ha
  · injection h with h _; subst h; exact .refl v

theorem movWrite_frame {dst : MovDst} {w : Word} {v v' : View} {r : ResultState} (h : movWrite dst w v = .ok (v', r)) :
    BodyFrame v v' := by
  cases dst
  case exec =>
    simp only [movWrite] at h
    split at h
    · cases h
    · next v1 hi => injection h with h; injection h with h _; subst h; exact View.inject_frame hi
  all_goals
    injection h with h; injection h with h _; subst h
    exact ⟨rfl, rfl, rfl, rfl, rfl, rfl, rfl, rfl, rfl, rfl, rfl⟩

theorem setAndWait_frame {index : IrqIndex} {v v' : View} {r : ResultState} (h : setAndWait index v = .ok (v', r)) :
    BodyFrame v v' := by
  simp only [setAndWait] at h
  injection h with h
  split_ifs at h <;> (injection h with h _; subst h; exact ⟨rfl, rfl, rfl, rfl, rfl, rfl, rfl, rfl, rfl, rfl, rfl⟩)

/-- No instruction writes the memory, the configuration, the run control, the delay, the fault record or the pin
inputs by its body. -/
theorem bodyOf_frame {f : Form} {v v' : View} {r : ResultState} (h : bodyOf f v = .ok (v', r)) : BodyFrame v v' := by
  cases f with
  | jmp cond address =>
    cases cond
    case xDec => exact BodyFrame.trans (v := v.setX (v.sm.x - 1)) ⟨rfl, rfl, rfl, rfl, rfl, rfl, rfl, rfl, rfl, rfl, rfl⟩ (jumpIf_frame (taken := v.sm.x != 0) h)
    case yDec => exact BodyFrame.trans (v := v.setY (v.sm.y - 1)) ⟨rfl, rfl, rfl, rfl, rfl, rfl, rfl, rfl, rfl, rfl, rfl⟩ (jumpIf_frame (taken := v.sm.y != 0) h)
    all_goals exact jumpIf_frame h
  | wait p src =>
    cases src
    case irq index =>
      refine waitFor_frame ?_ h
      split
      · exact ⟨rfl, rfl, rfl, rfl, rfl, rfl, rfl, rfl, rfl, rfl, rfl⟩
      · exact .refl v
    all_goals exact waitFor_frame (after := fun v => v) (.refl v) h
  | input src n =>
    obtain ⟨-, v1, h1, h2, -⟩ := shiftIn_ok h
    subst h1 h2
    exact BodyFrame.trans (v.setIsr_frame _ _) (View.rxPush_frame _ _ _)
  | output dst n =>
    obtain ⟨-, v2, h1, h2, -⟩ := shiftOut_ok h
    subst h2
    exact BodyFrame.trans (BodyFrame.trans (v.setOsr_frame _ _)
      (View.outDeliver_frame h1)) (View.txPull_frame _ _ _)
  | push a b =>
    injection h with h; injection h with h _; subst h
    exact View.rxPush_frame _ _ _
  | pull a b =>
    injection h with h; injection h with h _; subst h
    exact View.txPull_frame _ _ _
  | mov dst op src => exact movWrite_frame h
  | irqSet index =>
    injection h with h; injection h with h _; subst h
    exact ⟨rfl, rfl, rfl, rfl, rfl, rfl, rfl, rfl, rfl, rfl, rfl⟩
  | irqWait index => exact setAndWait_frame h
  | irqClear w index =>
    injection h with h; injection h with h _; subst h
    exact ⟨rfl, rfl, rfl, rfl, rfl, rfl, rfl, rfl, rfl, rfl, rfl⟩
  | set dst data =>
    cases dst <;>
      (injection h with h; injection h with h _; subst h
       exact ⟨rfl, rfl, rfl, rfl, rfl, rfl, rfl, rfl, rfl, rfl, rfl⟩)
  | reserved row lsb => injection h with h; injection h with h _; subst h; exact .refl v

/-! ### Legal states -/

/-- What a body may change of the parts that `SM.Legal` speaks of. -/
structure Bounded (p : Params) (m : SM) : Prop where
  isr : m.isrShiftCount ≤ 32
  osr : m.osrShiftCount ≤ 32
  tx : m.txFifo.length ≤ capTx p m.shiftctrl
  rx : m.rxFifo.length ≤ capRx p m.shiftctrl

theorem View.rxPush_bounded {v : View} (h : Bounded v.params v.sm) (a b : Bool) :
    Bounded v.params (v.rxPush a b).2.sm := by
  rcases v.rxPush_cases a b with ⟨-, e⟩ | ⟨-, -, e⟩ | ⟨-, hf, e⟩ <;> rw [e]
  · exact h
  · exact h
  · have hr := h.rx
    rw [rxFull_iff] at hf
    refine ⟨Nat.zero_le _, h.osr, h.tx, ?_⟩
    show (v.sm.rxFifo ++ [v.sm.isr]).length ≤ capRx v.params v.sm.shiftctrl
    rw [List.length_append, List.length_singleton]
    omega

theorem View.txPull_bounded {v : View} (h : Bounded v.params v.sm) (a b : Bool) :
    Bounded v.params (v.txPull a b).2.sm := by
  rcases v.txPull_cases a b with ⟨-, e⟩ | ⟨-, -, e⟩ | ⟨-, w, rest, ht, e⟩ <;> rw [e]
  · exact h
  · cases b
    · exact ⟨h.isr, Nat.zero_le _, h.tx, h.rx⟩
    · exact h
  · have hr := h.tx
    rw [ht, List.length_cons] at hr
    exact ⟨h.isr, Nat.zero_le _, (show rest.length ≤ capTx v.params v.sm.shiftctrl by omega), h.rx⟩

theorem View.outDeliver_bounded {v v' : View} {dst : OutDst} {data : Word} {n : Nat} (hn : n ≤ 32)
    (h : Bounded v.params v.sm) (hd : v.outDeliver dst data n = .ok v') : Bounded v.params v'.sm := by
  cases dst
  case exec =>
    by_cases hp : v.sm.pendingInstruction = none
    · simp only [View.outDeliver, View.inject_ok _ hp] at hd
      injection hd with hd; subst hd
      exact ⟨h.isr, h.osr, h.tx, h.rx⟩
    · simp only [View.outDeliver, View.inject_error _ hp] at hd; cases hd
  case isr =>
    simp only [View.outDeliver] at hd
    injection hd with hd; subst hd
    refine ⟨?_, h.osr, h.tx, h.rx⟩
    show countAfterWrite v.params v.sm.isrShiftCount n ≤ 32
    unfold countAfterWrite
    split
    · exact h.isr
    · exact hn
  all_goals
    simp only [View.outDeliver] at hd
    injection hd with hd; subst hd
    exact ⟨h.isr, h.osr, h.tx, h.rx⟩

theorem countAfterWrite_le {p : Params} {c n : Nat} (hc : c ≤ 32) (hn : n ≤ 32) : countAfterWrite p c n ≤ 32 := by
  unfold countAfterWrite; split <;> assumption

/-- Every body keeps the counters and the FIFO levels in range. -/
theorem bodyOf_bounded {f : Form} {v v' : View} {r : ResultState} (hb : Bounded v.params v.sm)
    (h : bodyOf f v = .ok (v', r)) : Bounded v.params v'.sm := by
  cases f with
  | jmp cond address =>
    cases cond <;> (injection h with h; split at h <;> (injection h with h _; subst h; exact ⟨hb.isr, hb.osr, hb.tx, hb.rx⟩))
  | wait p src =>
    cases src
    case irq index =>
      cases p <;>
      (injection h with h; split at h <;> (injection h with h _; subst h; exact ⟨hb.isr, hb.osr, hb.tx, hb.rx⟩))
    all_goals (injection h with h; split at h <;> (injection h with h _; subst h; exact hb))
  | input src n =>
    obtain ⟨-, v1, h1, h2, -⟩ := shiftIn_ok h
    subst h1 h2
    exact View.rxPush_bounded (v := v.setIsr _ _) ⟨addCount_le _ _, hb.osr, hb.tx, hb.rx⟩ _ _
  | output dst n =>
    obtain ⟨hn, v2, h1, h2, -⟩ := shiftOut_ok h
    subst h2
    have hf := View.outDeliver_frame h1
    have h0 : Bounded v.params v2.sm :=
      View.outDeliver_bounded
        (v := v.setOsr (shiftRest v.sm.shiftctrl.outShiftdir v.sm.osr n) (addCount v.sm.osrShiftCount n)) hn.2
        ⟨hb.isr, addCount_le _ _, hb.tx, hb.rx⟩ h1
    have hp : v2.params = v.params := hf.params
    rw [← hp] at h0 ⊢
    exact View.txPull_bounded h0 _ _
  | push a b =>
    injection h with h; injection h with h _; subst h
    exact View.rxPush_bounded hb _ _
  | pull a b =>
    injection h with h; injection h with h _; subst h
    exact View.txPull_bounded hb _ _
  | mov dst op src =>
    cases dst
    case exec =>
      by_cases hp : v.sm.pendingInstruction = none
      · simp only [bodyOf, move, movWrite, View.inject_ok _ hp] at h
        injection h with h; injection h with h _; subst h
        exact ⟨hb.isr, hb.osr, hb.tx, hb.rx⟩
      · simp only [bodyOf, move, movWrite, View.inject_error _ hp] at h; cases h
    case isr =>
      injection h with h; injection h with h _; subst h
      exact ⟨countAfterWrite_le hb.isr (Nat.zero_le _), hb.osr, hb.tx, hb.rx⟩
    case osr =>
      injection h with h; injection h with h _; subst h
      exact ⟨hb.isr, countAfterWrite_le hb.osr (Nat.zero_le _), hb.tx, hb.rx⟩
    all_goals
      injection h with h; injection h with h _; subst h
      exact ⟨hb.isr, hb.osr, hb.tx, hb.rx⟩
  | irqSet index =>
    injection h with h; injection h with h _; subst h
    exact hb
  | irqWait index =>
    simp only [bodyOf, setAndWait] at h
    injection h with h
    split_ifs at h <;> (injection h with h _; subst h; exact ⟨hb.isr, hb.osr, hb.tx, hb.rx⟩)
  | irqClear w index =>
    injection h with h; injection h with h _; subst h
    exact hb
  | set dst data =>
    cases dst <;> (injection h with h; injection h with h _; subst h; exact ⟨hb.isr, hb.osr, hb.tx, hb.rx⟩)
  | reserved row lsb => injection h with h; injection h with h _; subst h; exact hb

/-! ### The inversion of `exec` -/

/-- Everything `exec` can answer with a next state: a reserved word's decode error, or a body followed by steps 6 to 8
of the tick. -/
theorem exec_next {i : Instr} {s t : State} (h : exec i s = .next t) :
    (∃ row lsb, i.form = .reserved row lsb ∧
      t = s.putView (s.view.takeDecodeError (reservedOpcode row ++ i.df ++ lsb))) ∨
    (∃ v r, bodyOf i.form (s.view.setIrqWait (match i.form with
          | .irqWait _ => (s.sm s.cur).irqWait
          | _ => none)) = .ok (v, r) ∧
      t = s.putView (v.finish i.df r)) := by
  rw [exec_eq_meaning] at h
  generalize i.form = f at h ⊢
  cases f
  case reserved row lsb =>
    left
    injection h with h
    exact ⟨row, lsb, rfl, h.symm⟩
  all_goals
    right
    exact settle_next h

end Sys2Proof.Machine
end

