-- ==== Sys2Proof/Laws/Effects.lean ====
section
/-! SUPPORT. What a body of an instruction can change of the registers, the FIFOs, the injection slot, the flags and the
latches; the side-set is idempotent; an instruction depends on its own SM and what is shared only. -/

namespace Sys2Proof.Machine

/-- How a body of form `f` and result `r` may change the PC, X, Y and the two FIFOs. -/
structure BodyEffect (f : Form) (v v' : View) (r : ResultState) : Prop where
  pc : v'.sm.pc = v.sm.pc ∨ (r ≠ .complete ∧
    ((∃ c a, f = .jmp c a ∧ v'.sm.pc = a) ∨ (∃ n, f = .output .pc n) ∨ ∃ op src, f = .mov .pc op src))
  x : v'.sm.x = v.sm.x ∨
    ((∃ d, f = .set .x d) ∨ (∃ n, f = .output .x n) ∨ (∃ op src, f = .mov .x op src) ∨
      (∃ a, f = .jmp .xDec a ∧ v'.sm.x = v.sm.x - 1))
  y : v'.sm.y = v.sm.y ∨
    ((∃ d, f = .set .y d) ∨ (∃ n, f = .output .y n) ∨ (∃ op src, f = .mov .y op src) ∨
      (∃ a, f = .jmp .yDec a ∧ v'.sm.y = v.sm.y - 1))
  rx : v'.sm.rxFifo = v.sm.rxFifo ∨
    (((∃ src n, f = .input src n) ∨ ∃ a b, f = .push a b) ∧
      v'.sm.isr = 0 ∧ v'.sm.isrShiftCount = 0 ∧ ∃ w, v'.sm.rxFifo = v.sm.rxFifo ++ [w])
  tx : v'.sm.txFifo = v.sm.txFifo ∨
    (((∃ dst n, f = .output dst n) ∨ ∃ a b, f = .pull a b) ∧
      v'.sm.osrShiftCount = 0 ∧ v.sm.txFifo = v'.sm.osr :: v'.sm.txFifo)

/-- R158: a push changes the ISR with its counter and the RX FIFO only. -/
theorem View.rxPush_effect (v : View) (a b : Bool) :
    let m := (v.rxPush a b).2.sm
    m.pc = v.sm.pc ∧ m.x = v.sm.x ∧ m.y = v.sm.y ∧ m.txFifo = v.sm.txFifo ∧
      (m.rxFifo = v.sm.rxFifo ∨ (m.isr = 0 ∧ m.isrShiftCount = 0 ∧ ∃ w, m.rxFifo = v.sm.rxFifo ++ [w])) := by
  intro m
  simp only [m]
  rcases v.rxPush_cases a b with ⟨-, e⟩ | ⟨-, -, e⟩ | ⟨-, -, e⟩ <;> rw [e]
  · exact ⟨rfl, rfl, rfl, rfl, .inl rfl⟩
  · exact ⟨rfl, rfl, rfl, rfl, .inl rfl⟩
  · exact ⟨rfl, rfl, rfl, rfl, .inr ⟨rfl, rfl, _, rfl⟩⟩

/-- R160, R161: a pull changes the OSR with its counter and the TX FIFO only. -/
theorem View.txPull_effect (v : View) (a b : Bool) :
    let m := (v.txPull a b).2.sm
    m.pc = v.sm.pc ∧ m.x = v.sm.x ∧ m.y = v.sm.y ∧ m.rxFifo = v.sm.rxFifo ∧
      (m.txFifo = v.sm.txFifo ∨ (m.osrShiftCount = 0 ∧ v.sm.txFifo = m.osr :: m.txFifo)) := by
  intro m
  simp only [m]
  rcases v.txPull_cases a b with ⟨-, e⟩ | ⟨-, -, e⟩ | ⟨-, w, r, hh, e⟩ <;> rw [e]
  · exact ⟨rfl, rfl, rfl, rfl, .inl rfl⟩
  · cases b <;> exact ⟨rfl, rfl, rfl, rfl, .inl rfl⟩
  · exact ⟨rfl, rfl, rfl, rfl, .inr ⟨rfl, hh⟩⟩

/-- Every body keeps to `BodyEffect`. -/
theorem bodyOf_effect {f : Form} {v v' : View} {r} (h : bodyOf f v = .ok (v', r)) : BodyEffect f v v' r := by
  have same : ∀ {f} {v' : View} {r}, v'.sm.pc = v.sm.pc → v'.sm.x = v.sm.x → v'.sm.y = v.sm.y →
      v'.sm.rxFifo = v.sm.rxFifo → v'.sm.txFifo = v.sm.txFifo → BodyEffect f v v' r :=
    fun a b c d e => ⟨.inl a, .inl b, .inl c, .inl d, .inl e⟩
  cases f with
  | jmp c a =>
    have key : ∀ (t : Bool) (w : View), jumpIf t a w = .ok (v', r) →
        (v'.sm.pc = w.sm.pc ∧ v'.sm.x = w.sm.x ∧ v'.sm.y = w.sm.y ∧ v'.sm.rxFifo = w.sm.rxFifo ∧
          v'.sm.txFifo = w.sm.txFifo) ∨
        (v'.sm.pc = a ∧ r ≠ .complete ∧ v'.sm.x = w.sm.x ∧ v'.sm.y = w.sm.y ∧ v'.sm.rxFifo = w.sm.rxFifo ∧
          v'.sm.txFifo = w.sm.txFifo) := by
      intro t w h
      injection h with h
      cases t <;> (injection h with h h2; subst h h2)
      · left; exact ⟨rfl, rfl, rfl, rfl, rfl⟩
      · right; exact ⟨rfl, by simp, rfl, rfl, rfl, rfl⟩
    cases c
    case xDec =>
      rcases key (v.sm.x != 0) (v.setX (v.sm.x - 1)) h with ⟨a1, a2, a3, a4, a5⟩ | ⟨a1, a0, a2, a3, a4, a5⟩
      · exact ⟨.inl a1, .inr (.inr (.inr (.inr ⟨a, rfl, a2⟩))), .inl a3, .inl a4, .inl a5⟩
      · exact ⟨.inr ⟨a0, .inl ⟨_, _, rfl, a1⟩⟩, .inr (.inr (.inr (.inr ⟨a, rfl, a2⟩))), .inl a3, .inl a4, .inl a5⟩
    case yDec =>
      rcases key (v.sm.y != 0) (v.setY (v.sm.y - 1)) h with ⟨a1, a2, a3, a4, a5⟩ | ⟨a1, a0, a2, a3, a4, a5⟩
      · exact ⟨.inl a1, .inl a2, .inr (.inr (.inr (.inr ⟨a, rfl, a3⟩))), .inl a4, .inl a5⟩
      · exact ⟨.inr ⟨a0, .inl ⟨_, _, rfl, a1⟩⟩, .inl a2, .inr (.inr (.inr (.inr ⟨a, rfl, a3⟩))), .inl a4, .inl a5⟩
    all_goals
      rcases key _ v h with ⟨a1, a2, a3, a4, a5⟩ | ⟨a1, a0, a2, a3, a4, a5⟩
      · exact same a1 a2 a3 a4 a5
      · exact ⟨.inr ⟨a0, .inl ⟨_, _, rfl, a1⟩⟩, .inl a2, .inl a3, .inl a4, .inl a5⟩
  | wait p src => cases src <;> cases p <;>
      (injection h with h; split at h <;> (injection h with h _; subst h; exact same rfl rfl rfl rfl rfl))
  | input src n =>
    obtain ⟨-, v1, h1, h2, -⟩ := shiftIn_ok h
    subst h1 h2
    obtain ⟨a1, a2, a3, a4, a5⟩ := View.rxPush_effect (v.setIsr
      (shiftInto v.sm.shiftctrl.inShiftdir v.sm.isr (v.inValue src) n) (addCount v.sm.isrShiftCount n)) true true
    refine ⟨.inl a1, .inl a2, .inl a3, ?_, .inl a4⟩
    rcases a5 with a5 | a5
    · exact .inl a5
    · exact .inr ⟨.inl ⟨_, _, rfl⟩, a5⟩
  | output dst n =>
    obtain ⟨-, v2, h1, h2, hr⟩ := shiftOut_ok h
    subst h2
    obtain ⟨a1, a2, a3, a4, a5⟩ := View.txPull_effect v2 true true
    have b : v2.sm.txFifo = v.sm.txFifo ∧ v2.sm.rxFifo = v.sm.rxFifo ∧
        (v2.sm.pc = v.sm.pc ∨ dst = .pc) ∧ (v2.sm.x = v.sm.x ∨ dst = .x) ∧ (v2.sm.y = v.sm.y ∨ dst = .y) := by
      cases dst
      case exec =>
        simp only [View.outDeliver, View.inject] at h1
        split at h1
        · cases h1
        · injection h1 with h1; subst h1; exact ⟨rfl, rfl, .inl rfl, .inl rfl, .inl rfl⟩
      all_goals (injection h1 with h1; subst h1)
      · exact ⟨rfl, rfl, .inl rfl, .inl rfl, .inl rfl⟩
      · exact ⟨rfl, rfl, .inl rfl, .inr rfl, .inl rfl⟩
      · exact ⟨rfl, rfl, .inl rfl, .inl rfl, .inr rfl⟩
      · exact ⟨rfl, rfl, .inl rfl, .inl rfl, .inl rfl⟩
      · exact ⟨rfl, rfl, .inl rfl, .inl rfl, .inl rfl⟩
      · exact ⟨rfl, rfl, .inr rfl, .inl rfl, .inl rfl⟩
      · exact ⟨rfl, rfl, .inl rfl, .inl rfl, .inl rfl⟩
    obtain ⟨b1, b2, b3, b4, b5⟩ := b
    refine ⟨?_, ?_, ?_, .inl (a4.trans b2), ?_⟩
    · rcases b3 with b | b
      · exact .inl (a1.trans b)
      · subst b; exact .inr ⟨by rw [hr]; simp [outResult], .inr (.inl ⟨_, rfl⟩)⟩
    · rcases b4 with b | b
      · exact .inl (a2.trans b)
      · subst b; exact .inr (.inr (.inl ⟨_, rfl⟩))
    · rcases b5 with b | b
      · exact .inl (a3.trans b)
      · subst b; exact .inr (.inr (.inl ⟨_, rfl⟩))
    · rcases a5 with a | ⟨a, a'⟩
      · exact .inl (a.trans b1)
      · exact .inr ⟨.inl ⟨_, _, rfl⟩, a, b1 ▸ a'⟩
  | push a b =>
    injection h with h; injection h with h _; subst h
    obtain ⟨a1, a2, a3, a4, a5⟩ := View.rxPush_effect v a b
    refine ⟨.inl a1, .inl a2, .inl a3, ?_, .inl a4⟩
    rcases a5 with a5 | a5
    · exact .inl a5
    · exact .inr ⟨.inr ⟨_, _, rfl⟩, a5⟩
  | pull a b =>
    injection h with h; injection h with h _; subst h
    obtain ⟨a1, a2, a3, a4, a5⟩ := View.txPull_effect v a b
    refine ⟨.inl a1, .inl a2, .inl a3, .inl a4, ?_⟩
    rcases a5 with a5 | a5
    · exact .inl a5
    · exact .inr ⟨.inr ⟨_, _, rfl⟩, a5⟩
  | mov d o sr =>
    cases d
    case exec =>
      simp only [bodyOf, move, movWrite, View.inject] at h
      split at h
      · cases h
      · next h1 =>
        split at h1
        · cases h1
        · injection h1 with h1; injection h with h; injection h with h _; subst h h1
          exact same rfl rfl rfl rfl rfl
    all_goals (injection h with h; injection h with h hr; subst h)
    · exact same rfl rfl rfl rfl rfl
    · exact ⟨.inl rfl, .inr (.inr (.inr (.inl ⟨_, _, rfl⟩))), .inl rfl, .inl rfl, .inl rfl⟩
    · exact ⟨.inl rfl, .inl rfl, .inr (.inr (.inr (.inl ⟨_, _, rfl⟩))), .inl rfl, .inl rfl⟩
    · exact ⟨.inr ⟨by simp [← hr], .inr (.inr ⟨_, _, rfl⟩)⟩, .inl rfl, .inl rfl, .inl rfl, .inl rfl⟩
    · exact same rfl rfl rfl rfl rfl
    · exact same rfl rfl rfl rfl rfl
  | irqSet => injection h with h; injection h with h _; subst h; exact same rfl rfl rfl rfl rfl
  | irqWait =>
    simp only [bodyOf, setAndWait] at h
    injection h with h
    split_ifs at h <;> (injection h with h _; subst h; exact same rfl rfl rfl rfl rfl)
  | irqClear => injection h with h; injection h with h _; subst h; exact same rfl rfl rfl rfl rfl
  | set d v =>
    cases d <;> (injection h with h; injection h with h _; subst h)
    · exact same rfl rfl rfl rfl rfl
    · exact ⟨.inl rfl, .inr (.inl ⟨_, rfl⟩), .inl rfl, .inl rfl, .inl rfl⟩
    · exact ⟨.inl rfl, .inl rfl, .inr (.inl ⟨_, rfl⟩), .inl rfl, .inl rfl⟩
    · exact same rfl rfl rfl rfl rfl
  | reserved => injection h with h; injection h with h _; subst h; exact same rfl rfl rfl rfl rfl

/-! ### Flags and latches -/

/-- A flag that changed is the one that was made. -/
theorem FlagMade.changed {b a : BitVec 8} {n : BitVec 3} {l : Bool} (h : FlagMade b a n.toNat l) {k : Nat}
    (hk : k < 8) (hne : a.getLsbD k ≠ b.getLsbD k) : k = n.toNat ∧ a.getLsbD k = l := by
  have := h k hk
  by_cases hh : k = n.toNat
  · rw [if_pos hh] at this; exact ⟨hh, this⟩
  · rw [if_neg hh] at this; exact absurd this hne

theorem View.rxPush_shared (v : View) (a b) : (v.rxPush a b).2.shared = v.shared := by
  rcases v.rxPush_cases a b with ⟨-, e⟩ | ⟨-, -, e⟩ | ⟨-, -, e⟩ <;> rw [e] <;> rfl

theorem View.txPull_shared (v : View) (a b) : (v.txPull a b).2.shared = v.shared := by
  rcases v.txPull_cases a b with ⟨-, e⟩ | ⟨-, -, e⟩ | ⟨-, w, r, -, e⟩ <;> rw [e]
  · cases b <;> rfl
  · rfl

/-- R34: the flags a body can change. -/
theorem bodyOf_irq {f : Form} {v v' : View} {r} (h : bodyOf f v = .ok (v', r)) (k : Nat) (hk : k < 8)
    (hne : v'.shared.irq.getLsbD k ≠ v.shared.irq.getLsbD k) :
    ∃ index, flagNumber v.num index = k ∧
      (((f = .irqSet index ∨ f = .irqWait index) ∧ v'.shared.irq.getLsbD k = true) ∨
        (((∃ wait, f = .irqClear wait index) ∨ f = .wait true (.irq index)) ∧
          v'.shared.irq.getLsbD k = false)) := by
  cases f with
  | jmp c a => cases c <;>
      (injection h with h; split at h <;> (injection h with h _; subst h; exact absurd rfl hne))
  | wait p src =>
    cases src
    case irq idx =>
      cases p
      · injection h with h; split at h <;> (injection h with h _; subst h; exact absurd rfl hne)
      · injection h with h; split at h <;> (injection h with h _; subst h)
        · obtain ⟨a, b⟩ := FlagMade.changed (Shared.irqClear_spec v.shared (irqNum v.num idx)) hk hne
          exact ⟨idx, by rw [← irqNum_toNat, a], .inr ⟨.inr rfl, b⟩⟩
        · exact absurd rfl hne
    all_goals
      (injection h with h; split at h <;> (injection h with h _; subst h; exact absurd rfl hne))
  | input src n =>
    obtain ⟨-, v1, h1, h2, -⟩ := shiftIn_ok h
    subst h1 h2; rw [View.rxPush_shared] at hne; exact absurd rfl hne
  | output dst n =>
    obtain ⟨-, v2, h1, h2, -⟩ := shiftOut_ok h
    subst h2; rw [View.txPull_shared] at hne
    cases dst
    case exec =>
        simp only [View.outDeliver, View.inject] at h1
        split at h1
        · cases h1
        · injection h1 with h1; subst h1; exact absurd rfl hne
    all_goals (injection h1 with h1; subst h1; exact absurd rfl hne)
  | push a b => injection h with h; injection h with h _; subst h; rw [View.rxPush_shared] at hne; exact absurd rfl hne
  | pull a b => injection h with h; injection h with h _; subst h; rw [View.txPull_shared] at hne; exact absurd rfl hne
  | mov d o sr =>
    cases d
    case exec =>
      simp only [bodyOf, move, movWrite, View.inject] at h
      split at h
      · cases h
      · next h1 =>
        split at h1
        · cases h1
        · injection h1 with h1; injection h with h; injection h with h _; subst h h1
          exact absurd rfl hne
    all_goals (injection h with h; injection h with h _; subst h; exact absurd rfl hne)
  | irqSet idx =>
    injection h with h; injection h with h _; subst h
    obtain ⟨a, b⟩ := FlagMade.changed (Shared.irqSet_spec v.shared (irqNum v.num idx)) hk hne
    exact ⟨idx, by rw [← irqNum_toNat, a], .inl ⟨.inl rfl, b⟩⟩
  | irqWait idx =>
    have key : v'.shared = v.shared ∨ v'.shared = v.shared.irqSet (irqNum v.num idx) := by
      simp only [bodyOf, setAndWait] at h
      injection h with h
      split_ifs at h <;> (injection h with h _; subst h)
      · exact .inl rfl
      · exact .inl rfl
      · exact .inr rfl
      · exact .inr rfl
    rcases key with e | e <;> rw [e] at hne ⊢
    · exact absurd rfl hne
    · obtain ⟨a, b⟩ := FlagMade.changed (Shared.irqSet_spec v.shared (irqNum v.num idx)) hk hne
      exact ⟨idx, by rw [← irqNum_toNat, a], .inl ⟨.inr rfl, b⟩⟩
  | irqClear w idx =>
    injection h with h; injection h with h _; subst h
    obtain ⟨a, b⟩ := FlagMade.changed (Shared.irqClear_spec v.shared (irqNum v.num idx)) hk hne
    exact ⟨idx, by rw [← irqNum_toNat, a], .inr ⟨.inl ⟨w, rfl⟩, b⟩⟩
  | set d v => cases d <;> (injection h with h; injection h with h _; subst h; exact absurd rfl hne)
  | reserved => injection h with h; injection h with h _; subst h; exact absurd rfl hne

/-- Pin `p` is not one of the `count` pins from `base`. -/
def OutsideWindow (base : Index) (count p : Nat) : Prop := ∀ k < 32, k < count → (base.toNat + k) % 32 ≠ p

/-- R164: a body drives pins of the OUT and the SET window only. -/
theorem bodyOf_latches {f : Form} {v v' : View} {r} (h : bodyOf f v = .ok (v', r)) (p : Nat) (hp : p < 32)
    (ho : OutsideWindow v.sm.pinctrl.outBase v.sm.pinctrl.outCount.toNat p)
    (hs : OutsideWindow v.sm.pinctrl.setBase v.sm.pinctrl.setCount.toNat p) :
   v'.shared.pinLevel.getLsbD p = v.shared.pinLevel.getLsbD p ∧ v'.shared.pinDir.getLsbD p = v.shared.pinDir.getLsbD p := by
  cases f with
  | jmp c a => cases c <;>
      (injection h with h; split at h <;> (injection h with h _; subst h; exact ⟨rfl, rfl⟩))
  | wait p src => cases src <;> cases p <;>
      (injection h with h; split at h <;> (injection h with h _; subst h; exact ⟨rfl, rfl⟩))
  | input src n =>
    obtain ⟨-, v1, h1, h2, -⟩ := shiftIn_ok h
    subst h1 h2; rw [View.rxPush_shared]; exact ⟨rfl, rfl⟩
  | output dst n =>
    obtain ⟨-, v2, h1, h2, -⟩ := shiftOut_ok h
    subst h2; rw [View.txPull_shared]
    cases dst
    case exec =>
        simp only [View.outDeliver, View.inject] at h1
        split at h1
        · cases h1
        · injection h1 with h1; subst h1; exact ⟨rfl, rfl⟩
    case pins => injection h1 with h1; subst h1; exact ⟨(writeWindow_spec _ _ _ _).2 p hp ho, rfl⟩
    case pindirs => injection h1 with h1; subst h1; exact ⟨rfl, (writeWindow_spec _ _ _ _).2 p hp ho⟩
    all_goals (injection h1 with h1; subst h1; exact ⟨rfl, rfl⟩)
  | push a b => injection h with h; injection h with h _; subst h; rw [View.rxPush_shared]; exact ⟨rfl, rfl⟩
  | pull a b => injection h with h; injection h with h _; subst h; rw [View.txPull_shared]; exact ⟨rfl, rfl⟩
  | mov d o sr =>
    cases d
    case exec =>
      simp only [bodyOf, move, movWrite, View.inject] at h
      split at h
      · cases h
      · next h1 =>
        split at h1
        · cases h1
        · injection h1 with h1; injection h with h; injection h with h _; subst h h1
          exact ⟨rfl, rfl⟩
    case pins => injection h with h; injection h with h _; subst h; exact ⟨(writeWindow_spec _ _ _ _).2 p hp ho, rfl⟩
    all_goals (injection h with h; injection h with h _; subst h; exact ⟨rfl, rfl⟩)
  | irqSet idx => injection h with h; injection h with h _; subst h; exact ⟨rfl, rfl⟩
  | irqWait idx =>
    simp only [bodyOf, setAndWait] at h
    injection h with h
    split_ifs at h <;> (injection h with h _; subst h; exact ⟨rfl, rfl⟩)
  | irqClear w idx => injection h with h; injection h with h _; subst h; exact ⟨rfl, rfl⟩
  | set d v =>
    cases d <;> (injection h with h; injection h with h _; subst h)
    · exact ⟨(writeWindow_spec _ _ _ _).2 p hp hs, rfl⟩
    · exact ⟨rfl, rfl⟩
    · exact ⟨rfl, rfl⟩
    · exact ⟨rfl, (writeWindow_spec _ _ _ _).2 p hp hs⟩
  | reserved => injection h with h; injection h with h _; subst h; exact ⟨rfl, rfl⟩

/-- R295: a side-set drives pins of its window only. -/
theorem SideSetApplied.outside {m : SM} {df lv dr lv' dr'} (h : SideSetApplied m df lv dr lv' dr')
    (hc : m.pinctrl.sidesetCount.toNat ≤ 5) {p : Nat} (hp : p < 32)
    (ho : OutsideWindow m.pinctrl.sidesetBase (sidePins m) p) :
    lv'.getLsbD p = lv.getLsbD p ∧ dr'.getLsbD p = dr.getLsbD p := by
  by_cases hs : SidePresent m df
  · cases hd : m.execctrl.sidePindir
    · obtain ⟨a, b⟩ := h.levels hs hc hd; exact ⟨b.2 p hp ho, by rw [a]⟩
    · obtain ⟨a, b⟩ := h.dirs hs hc hd; exact ⟨by rw [a], b.2 p hp ho⟩
  · obtain ⟨a, b⟩ := h.absent hs; rw [a, b]; exact ⟨rfl, rfl⟩

/-! ### The injection slot -/

/-- R229, R264: OUT EXEC and MOV EXEC fill the slot; no other body does. -/
theorem bodyOf_slot {f : Form} {v v' : View} {r} (h : bodyOf f v = .ok (v', r)) (hn : v.sm.pendingInstruction = none) :
    (v'.sm.pendingInstruction = none ↔ fillsSlot f = false) := by
  have push : ∀ (v : View) a b, (v.rxPush a b).2.sm.pendingInstruction = v.sm.pendingInstruction := by
    intro v a b; rcases v.rxPush_cases a b with ⟨-, e⟩ | ⟨-, -, e⟩ | ⟨-, -, e⟩ <;> rw [e] <;> rfl
  have pull : ∀ (v : View) a b, (v.txPull a b).2.sm.pendingInstruction = v.sm.pendingInstruction := by
    intro v a b; rcases v.txPull_cases a b with ⟨-, e⟩ | ⟨-, -, e⟩ | ⟨-, w, r, -, e⟩ <;> rw [e]
    · cases b <;> rfl
    · rfl
  cases f with
  | jmp c a => cases c <;>
      (injection h with h; split at h <;> (injection h with h _; subst h; exact iff_of_true hn rfl))
  | wait p src => cases src <;> cases p <;>
      (injection h with h; split at h <;> (injection h with h _; subst h; exact iff_of_true hn rfl))
  | input src n =>
    obtain ⟨-, v1, h1, h2, -⟩ := shiftIn_ok h
    subst h1 h2; rw [push]; exact iff_of_true hn rfl
  | output dst n =>
    obtain ⟨-, v2, h1, h2, -⟩ := shiftOut_ok h
    subst h2; rw [pull]
    cases dst
    case exec =>
      simp only [View.outDeliver] at h1
      rw [View.inject_ok _ (by exact hn)] at h1
      injection h1 with h1; subst h1; exact iff_of_false (by simp) (by simp [fillsSlot])
    all_goals (injection h1 with h1; subst h1; exact iff_of_true hn rfl)
  | push a b => injection h with h; injection h with h _; subst h; rw [push]; exact iff_of_true hn rfl
  | pull a b => injection h with h; injection h with h _; subst h; rw [pull]; exact iff_of_true hn rfl
  | mov d o sr =>
    cases d
    case exec =>
      simp only [bodyOf, move, movWrite, View.inject_ok _ hn] at h
      injection h with h; injection h with h _; subst h;  exact iff_of_false (by simp) (by simp [fillsSlot])
    all_goals (injection h with h; injection h with h _; subst h; exact iff_of_true hn rfl)
  | irqSet => injection h with h; injection h with h _; subst h; exact iff_of_true hn rfl
  | irqWait =>
    simp only [bodyOf, setAndWait] at h
    injection h with h
    split_ifs at h <;> (injection h with h _; subst h; exact iff_of_true hn rfl)
  | irqClear => injection h with h; injection h with h _; subst h; exact iff_of_true hn rfl
  | set d v => cases d <;> (injection h with h; injection h with h _; subst h; exact iff_of_true hn rfl)
  | reserved => injection h with h; injection h with h _; subst h; exact iff_of_true hn rfl

/-! ### Locality and idempotence -/

theorem settle_local {df} {s s' t : State} {o} (h : settle df s o = .next t) :
    ∃ v, t = s.putView v ∧ settle df s' o = .next (s'.putView v) := by
  obtain ⟨v, r, rfl, rfl⟩ := settle_next h
  exact ⟨_, rfl, rfl⟩

/-- What an instruction does, it does to the view of its SM; the rest of the machine stays. -/
theorem exec_local {i : Instr} {s s' t : State} (hv : s.view = s'.view) (h : exec i s = .next t) :
    ∃ v, t = s.putView v ∧ exec i s' = .next (s'.putView v) := by
  rw [exec_eq_meaning] at h ⊢
  generalize i.form = f at h ⊢
  cases f
  case reserved row lsb => injection h with h; exact ⟨_, h.symm, by rw [hv]; rfl⟩
  case irqWait => simp only [meaningOf, retireKeepingLatch, hv] at h ⊢; exact settle_local h
  all_goals (simp only [meaningOf, retire, hv] at h ⊢; exact settle_local h)

theorem writeWindow_idem (l d : Word) (b : Index) (c : Nat) :
    writeWindow (writeWindow l d b c) d b c = writeWindow l d b c := by
  apply word_ext; intro k hk
  simp only [writeWindow, getLsbD_ofBits, hk, decide_true, Bool.true_and]
  split <;> rfl

/-- R295, R297: the side-set of one word twice is the side-set once. -/
theorem View.sideSet_idem (v : View) (df : BitVec 5) : (v.sideSet df).sideSet df = v.sideSet df := by
  rw [View.sideSet, View.sideSet_sm]
  cases h : sideSetOf v.sm.pinctrl.sidesetCount v.sm.execctrl.sideEn df with
  | none => rfl
  | some x =>
    have : v.sideSet df = v.driveSideSet x := by rw [View.sideSet, h]
    rw [this]
    show (v.driveSideSet x).driveSideSet x = v.driveSideSet x
    cases hp : v.sm.execctrl.sidePindir
    · simp only [View.driveSideSet, hp, View.setPins_sm]
      simp only [View.setPins, Shared.setPins, writeWindow_idem]
    · simp only [View.driveSideSet, hp, View.setPinDirs_sm]
      simp only [View.setPinDirs, Shared.setPinDirs, writeWindow_idem]

end Sys2Proof.Machine
end

