-- ==== Sys2Proof/Laws/Encoding.lean ====
section
/-! SUPPORT. The fields of a word (30_encoding.md R110), taken apart and put together. -/

namespace Sys2Proof

theorem word_lsb (a : BitVec 3) (b : BitVec 5) (c : Byte) : (a ++ b ++ c).extractLsb' 0 8 = c := by
  apply BitVec.eq_of_getLsbD_eq
  intro i hi
  rw [BitVec.getLsbD_extractLsb', BitVec.getLsbD_append]
  simp [hi]

theorem word_df (a : BitVec 3) (b : BitVec 5) (c : Byte) : (a ++ b ++ c).extractLsb' 8 5 = b := by
  apply BitVec.eq_of_getLsbD_eq
  intro i hi
  rw [BitVec.getLsbD_extractLsb', BitVec.getLsbD_append, BitVec.getLsbD_append]
  simp [hi, show ¬ 8 + i < 8 by omega]

theorem word_opcode (a : BitVec 3) (b : BitVec 5) (c : Byte) : (a ++ b ++ c).extractLsb' 13 3 = a := by
  apply BitVec.eq_of_getLsbD_eq
  intro i hi
  rw [BitVec.getLsbD_extractLsb', BitVec.getLsbD_append, BitVec.getLsbD_append]
  simp [hi, show ¬ 13 + i < 8 by omega, show ¬ (13 + i - 8 < 5) by omega, show 13 + i - 8 - 5 = i by omega]

/-- A word is its three fields. -/
theorem word_of_fields (w : InstrWord) : w.extractLsb' 13 3 ++ w.extractLsb' 8 5 ++ w.extractLsb' 0 8 = w := by
  apply BitVec.eq_of_getLsbD_eq
  intro i hi
  rw [BitVec.getLsbD_append, BitVec.getLsbD_append]
  by_cases h : i < 8
  · simp [h]
  · by_cases h2 : i - 8 < 5
    · simp [h, h2]; congr 1; omega
    · have : i - 8 - 5 < 3 := by omega
      simp [h, h2, this]; congr 1; omega

/-- A word is its two bytes (R72). -/
theorem word_of_bytes (w : InstrWord) : w.extractLsb' 8 8 ++ w.extractLsb' 0 8 = w := by
  apply BitVec.eq_of_getLsbD_eq
  intro i hi
  rw [BitVec.getLsbD_append]
  by_cases h : i < 8
  · simp [h]
  · have : i - 8 < 8 := by omega
    simp [h, this]; congr 1; omega

theorem Instr.df_ofForm (d : BitVec 5) (f : Form) : (Instr.ofForm d f).df = d := by
  cases f with
  | jmp c _ => cases c <;> rfl
  | wait _ s =>
    cases s with
    | irq i => cases i <;> rfl
    | gpio _ => rfl
    | pin _ => rfl
  | input s _ => cases s <;> rfl
  | output s _ => cases s <;> rfl
  | push => rfl
  | pull => rfl
  | mov d o s => cases d <;> cases o <;> cases s <;> rfl
  | irqSet i => cases i <;> rfl
  | irqWait i => cases i <;> rfl
  | irqClear _ i => cases i <;> rfl
  | set d _ => cases d <;> rfl
  | reserved r _ => cases r <;> rfl

theorem Instr.form_ofForm (d : BitVec 5) (f : Form) : (Instr.ofForm d f).form = f := by
  cases f with
  | jmp c _ => cases c <;> rfl
  | wait _ s =>
    cases s with
    | irq i => cases i <;> rfl
    | gpio _ => rfl
    | pin _ => rfl
  | input s _ => cases s <;> rfl
  | output s _ => cases s <;> rfl
  | push => rfl
  | pull => rfl
  | mov d o s => cases d <;> cases o <;> cases s <;> rfl
  | irqSet i => cases i <;> rfl
  | irqWait i => cases i <;> rfl
  | irqClear _ i => cases i <;> rfl
  | set d _ => cases d <;> rfl
  | reserved r _ => cases r <;> rfl

/-- The form of a decoded word. -/
theorem form_decodeWord (w : InstrWord) :
    (decodeWord w).form = decodeForm (w.extractLsb' 13 3) (w.extractLsb' 0 8) := by
  rw [decodeWord, Instr.form_ofForm]

theorem df_decodeWord (w : InstrWord) : (decodeWord w).df = w.extractLsb' 8 5 := by
  rw [decodeWord, Instr.df_ofForm]

end Sys2Proof
end

