-- ==== Sys2Proof/Laws/HostOps.lean ====
section
/-! SUPPORT. What the granular setters of 49_engine.md R319 can answer, said once for each. -/

namespace Sys2Proof.Machine

/-- R319: the accepted maxima as numbers. -/
theorem NumField.max_eq (f : NumField) :
    f.max = if f = .statusN then 15 else if f = .sidesetCount ∨ f = .setCount then 5 else 31 := by
  cases f <;> rfl

/-- R319: a value in range is stored. -/
theorem SM.setNum_accepted {m : SM} {f : NumField} {v : Nat} (h : v ≤ f.max) :
    m.setNum f v = (m.storeNum f v, .done) := if_pos h

/-- R319, R341: a value out of range is refused with no change. -/
theorem SM.setNum_refused {m : SM} {f : NumField} {v : Nat} (h : f.max < v) :
    m.setNum f v = (m, .failed (.invalidArgument (.num f) v)) := if_neg (Nat.not_le.2 h)

/-- A numeric setter writes configuration only. -/
theorem SM.storeNum_frame (m : SM) (f : NumField) (v : Nat) :
    { m.storeNum f v with execctrl := m.execctrl, shiftctrl := m.shiftctrl, pinctrl := m.pinctrl } = m := by
  cases f <;> rfl

/-- R80: join flags that are as they were change nothing. -/
@[simp] theorem SM.storeJoins_same (m : SM) : m.storeJoins m.shiftctrl.joinRx m.shiftctrl.joinTx = m :=
  if_pos ⟨rfl, rfl⟩

/-- R80: a change of JOIN_RX empties both FIFOs. -/
theorem SM.storeJoins_rx (m : SM) (b : Bool) : m.storeJoins b m.shiftctrl.joinTx =
    if b = m.shiftctrl.joinRx then m
    else { m with shiftctrl := { m.shiftctrl with joinRx := b }, txFifo := [], rxFifo := [] } := by
  split
  · next h => rw [h, SM.storeJoins_same]
  · next h => exact if_neg fun e => h e.1.symm

/-- R80: a change of JOIN_TX empties both FIFOs. -/
theorem SM.storeJoins_tx (m : SM) (b : Bool) : m.storeJoins m.shiftctrl.joinRx b =
    if b = m.shiftctrl.joinTx then m
    else { m with shiftctrl := { m.shiftctrl with joinTx := b }, txFifo := [], rxFifo := [] } := by
  split
  · next h => rw [h, SM.storeJoins_same]
  · next h => exact if_neg fun e => h e.2.symm

end Sys2Proof.Machine
end

