-- ==== Sys2Proof/Laws/Memory.lean ====
section
/-! SUPPORT. The instruction memory as bytes: a read after a write, and every operation keeps the canonical form. -/

namespace Sys2Proof.Machine

theorem readByte_of_lt {m : Memory} {a : Nat} (h : ∀ p ∈ m, a < p.1) : readByte m a = unlistedByte := by
  induction m with
  | nil => rfl
  | cons p m ih =>
    have hp : p.1 ≠ a := by have := h p (by simp); omega
    simp only [readByte, if_neg hp]
    exact ih fun q hq => h q (by simp [hq])

/-- A read after a write: the value written at its address, every other byte as before. -/
theorem readByte_writeByte {m : Memory} (hm : m.Pairwise (fun p q => p.1 < q.1)) (a : Nat) (v : Byte) (c : Nat) :
    readByte (writeByte m a v) c = if c = a then v else readByte m c := by
  induction m with
  | nil =>
    by_cases hv : v = unlistedByte <;> by_cases hc : c = a
    · simp [writeByte, readByte, hv, hc]
    · simp [writeByte, readByte, hv, hc]
    · simp [writeByte, readByte, hv, hc]
    · simp [writeByte, readByte, hv, hc, Ne.symm hc]
  | cons p m ih =>
    obtain ⟨b, w⟩ := p
    obtain ⟨hb, hm'⟩ := List.pairwise_cons.1 hm
    simp only [writeByte]
    by_cases h1 : a < b
    · rw [if_pos h1]
      by_cases hv : v = unlistedByte
      · rw [if_pos hv]
        by_cases hc : c = a
        · subst hc
          rw [if_pos rfl, hv]
          exact readByte_of_lt fun q hq => by
            rcases List.mem_cons.1 hq with rfl | hq
            · exact h1
            · exact Nat.lt_trans h1 (hb q hq)
        · rw [if_neg hc]
      · rw [if_neg hv]
        by_cases hc : c = a
        · rw [if_pos hc, hc, readByte, if_pos rfl]
        · rw [if_neg hc, readByte, if_neg (Ne.symm hc)]
    · rw [if_neg h1]
      by_cases h3 : a = b
      · subst h3
        rw [if_pos rfl]
        by_cases hc : c = a
        · subst hc
          rw [if_pos rfl]
          by_cases hv : v = unlistedByte
          · rw [if_pos hv, hv]
            exact readByte_of_lt hb
          · rw [if_neg hv, readByte, if_pos rfl]
        · rw [if_neg hc, readByte, if_neg (Ne.symm hc)]
          by_cases hv : v = unlistedByte
          · rw [if_pos hv]
          · rw [if_neg hv, readByte, if_neg (Ne.symm hc)]
      · rw [if_neg h3, readByte, readByte]
        by_cases hc : b = c
        · have : c ≠ a := by omega
          rw [if_pos hc, if_neg this, if_pos hc]
        · rw [if_neg hc, if_neg hc]
          exact ih hm'

theorem mem_writeByte {m : Memory} {a : Nat} {v : Byte} {q : Host.Cell} (h : q ∈ writeByte m a v) :
    q ∈ m ∨ (q = (a, v) ∧ v ≠ unlistedByte) := by
  induction m with
  | nil =>
    simp only [writeByte] at h
    split_ifs at h with hv
    · simp at h
    · exact .inr ⟨by simpa using h, hv⟩
  | cons p m ih =>
    obtain ⟨b, w⟩ := p
    simp only [writeByte] at h
    split_ifs at h with h1 h2 h3 h4
    · exact .inl h
    · rcases List.mem_cons.1 h with h | h
      · exact .inr ⟨h, h2⟩
      · exact .inl h
    · exact .inl (List.mem_cons_of_mem _ h)
    · rcases List.mem_cons.1 h with h | h
      · exact .inr ⟨h, h4⟩
      · exact .inl (List.mem_cons_of_mem _ h)
    · rcases List.mem_cons.1 h with h | h
      · exact .inl (by simp [h])
      · rcases ih h with h | h
        · exact .inl (List.mem_cons_of_mem _ h)
        · exact .inr h

/-- A write of a byte inside the memory keeps the canonical form. -/
theorem writeByte_wf {m : Memory} (hm : m.wf) {a : Nat} (ha : a < memoryBytes) (v : Byte) : (writeByte m a v).wf := by
  refine ⟨?_, fun p hp => ?_⟩
  · obtain ⟨hs, -⟩ := hm
    induction m with
    | nil =>
      simp only [writeByte]
      split_ifs <;> simp
    | cons p m ih =>
      obtain ⟨b, w⟩ := p
      obtain ⟨hb, hm'⟩ := List.pairwise_cons.1 hs
      simp only [writeByte]
      split_ifs with h1 h2 h3 h4
      · exact hs
      · refine List.pairwise_cons.2 ⟨fun q hq => ?_, hs⟩
        rcases List.mem_cons.1 hq with rfl | hq
        · exact h1
        · exact Nat.lt_trans h1 (hb q hq)
      · exact hm'
      · subst h3
        exact List.pairwise_cons.2 ⟨hb, hm'⟩
      · refine List.pairwise_cons.2 ⟨fun q hq => ?_, ih hm'⟩
        rcases mem_writeByte hq with hq | ⟨rfl, -⟩
        · exact hb q hq
        · show b < a
          omega
  · rcases mem_writeByte hp with hp | ⟨rfl, hv⟩
    · exact hm.2 p hp
    · exact ⟨ha, hv⟩

/-- A load of a word keeps the canonical form. -/
theorem memorySet_wf {m : Memory} (hm : m.wf) (a : Index) (w : InstrWord) : (memorySet m a w).wf := by
  have ha := a.isLt
  refine writeByte_wf (writeByte_wf hm ?_ _) ?_ _ <;> unfold memoryBytes <;> omega

/-- Every byte of the memory after a load of a word. -/
theorem readByte_memorySet {m : Memory} (hm : m.wf) (a : Index) (w : InstrWord) (c : Nat) :
    readByte (memorySet m a w) c =
      if c = 2 * a.toNat + 1 then w.extractLsb' 8 8
      else if c = 2 * a.toNat then w.extractLsb' 0 8 else readByte m c := by
  have ha := a.isLt
  have h1 : (writeByte m (2 * a.toNat) (w.extractLsb' 0 8)).wf :=
    writeByte_wf hm (by unfold memoryBytes; omega) _
  rw [memorySet, readByte_writeByte h1.1, readByte_writeByte hm.1]

/-- A fetch at an address of the memory never fails, and reads two bytes (R71, R72). -/
theorem memoryGet_eq (m : Memory) {a : Nat} (ha : a < 32) :
    memoryGet m a = .ok (readByte m (2 * a + 1) ++ readByte m (2 * a)) := by
  have h1 : 2 * a < memoryBytes := by unfold memoryBytes; omega
  have h2 : 2 * a + 1 < memoryBytes := by unfold memoryBytes; omega
  simp only [memoryGet, fetchByte, if_pos h1, if_pos h2]

end Sys2Proof.Machine
end

