-- ==== Sys2Proof/Laws/PerInstr.lean ====
section
/-! SUPPORT. The family FormOfRow of LAWS.json: one lemma for each constructor. -/

namespace Sys2Proof.Laws

/-- An instruction is its `df` and its form: no two constructors share a form, and no operand is dropped. -/
def FormOfRow.Statement (i : Instr) : Prop :=
  Instr.ofForm i.df i.form = i ∧ (Instr.ofForm i.df i.form).form = i.form ∧ (Instr.ofForm i.df i.form).df = i.df

theorem FormOfRow.jmp (df : BitVec 5) (address : Index) : FormOfRow.Statement (.jmp df address) := ⟨rfl, rfl, rfl⟩
theorem FormOfRow.jmpNotX (df : BitVec 5) (address : Index) : FormOfRow.Statement (.jmpNotX df address) := ⟨rfl, rfl, rfl⟩
theorem FormOfRow.jmpXDec (df : BitVec 5) (address : Index) : FormOfRow.Statement (.jmpXDec df address) := ⟨rfl, rfl, rfl⟩
theorem FormOfRow.jmpNotY (df : BitVec 5) (address : Index) : FormOfRow.Statement (.jmpNotY df address) := ⟨rfl, rfl, rfl⟩
theorem FormOfRow.jmpYDec (df : BitVec 5) (address : Index) : FormOfRow.Statement (.jmpYDec df address) := ⟨rfl, rfl, rfl⟩
theorem FormOfRow.jmpXNeY (df : BitVec 5) (address : Index) : FormOfRow.Statement (.jmpXNeY df address) := ⟨rfl, rfl, rfl⟩
theorem FormOfRow.jmpPin (df : BitVec 5) (address : Index) : FormOfRow.Statement (.jmpPin df address) := ⟨rfl, rfl, rfl⟩
theorem FormOfRow.jmpNotOsre (df : BitVec 5) (address : Index) : FormOfRow.Statement (.jmpNotOsre df address) := ⟨rfl, rfl, rfl⟩
theorem FormOfRow.waitGpio (df : BitVec 5) (polarity : Bool) (index : Index) : FormOfRow.Statement (.waitGpio df polarity index) := ⟨rfl, rfl, rfl⟩
theorem FormOfRow.waitPin (df : BitVec 5) (polarity : Bool) (index : Index) : FormOfRow.Statement (.waitPin df polarity index) := ⟨rfl, rfl, rfl⟩
theorem FormOfRow.waitIrq (df : BitVec 5) (polarity : Bool) (index : BitVec 3) : FormOfRow.Statement (.waitIrq df polarity index) := ⟨rfl, rfl, rfl⟩
theorem FormOfRow.waitIrqRel (df : BitVec 5) (polarity : Bool) (index : BitVec 2) : FormOfRow.Statement (.waitIrqRel df polarity index) := ⟨rfl, rfl, rfl⟩
theorem FormOfRow.inPins (df : BitVec 5) (bitCount : Nat) : FormOfRow.Statement (.inPins df bitCount) := ⟨rfl, rfl, rfl⟩
theorem FormOfRow.inX (df : BitVec 5) (bitCount : Nat) : FormOfRow.Statement (.inX df bitCount) := ⟨rfl, rfl, rfl⟩
theorem FormOfRow.inY (df : BitVec 5) (bitCount : Nat) : FormOfRow.Statement (.inY df bitCount) := ⟨rfl, rfl, rfl⟩
theorem FormOfRow.inNull (df : BitVec 5) (bitCount : Nat) : FormOfRow.Statement (.inNull df bitCount) := ⟨rfl, rfl, rfl⟩
theorem FormOfRow.inIsr (df : BitVec 5) (bitCount : Nat) : FormOfRow.Statement (.inIsr df bitCount) := ⟨rfl, rfl, rfl⟩
theorem FormOfRow.inOsr (df : BitVec 5) (bitCount : Nat) : FormOfRow.Statement (.inOsr df bitCount) := ⟨rfl, rfl, rfl⟩
theorem FormOfRow.outPins (df : BitVec 5) (bitCount : Nat) : FormOfRow.Statement (.outPins df bitCount) := ⟨rfl, rfl, rfl⟩
theorem FormOfRow.outX (df : BitVec 5) (bitCount : Nat) : FormOfRow.Statement (.outX df bitCount) := ⟨rfl, rfl, rfl⟩
theorem FormOfRow.outY (df : BitVec 5) (bitCount : Nat) : FormOfRow.Statement (.outY df bitCount) := ⟨rfl, rfl, rfl⟩
theorem FormOfRow.outNull (df : BitVec 5) (bitCount : Nat) : FormOfRow.Statement (.outNull df bitCount) := ⟨rfl, rfl, rfl⟩
theorem FormOfRow.outPindirs (df : BitVec 5) (bitCount : Nat) : FormOfRow.Statement (.outPindirs df bitCount) := ⟨rfl, rfl, rfl⟩
theorem FormOfRow.outPc (df : BitVec 5) (bitCount : Nat) : FormOfRow.Statement (.outPc df bitCount) := ⟨rfl, rfl, rfl⟩
theorem FormOfRow.outIsr (df : BitVec 5) (bitCount : Nat) : FormOfRow.Statement (.outIsr df bitCount) := ⟨rfl, rfl, rfl⟩
theorem FormOfRow.outExec (df : BitVec 5) (bitCount : Nat) : FormOfRow.Statement (.outExec df bitCount) := ⟨rfl, rfl, rfl⟩
theorem FormOfRow.push (df : BitVec 5) (ifFull : Bool) (block : Bool) : FormOfRow.Statement (.push df ifFull block) := ⟨rfl, rfl, rfl⟩
theorem FormOfRow.pull (df : BitVec 5) (ifEmpty : Bool) (block : Bool) : FormOfRow.Statement (.pull df ifEmpty block) := ⟨rfl, rfl, rfl⟩
theorem FormOfRow.movPinsPins (df : BitVec 5) : FormOfRow.Statement (.movPinsPins df) := ⟨rfl, rfl, rfl⟩
theorem FormOfRow.movPinsX (df : BitVec 5) : FormOfRow.Statement (.movPinsX df) := ⟨rfl, rfl, rfl⟩
theorem FormOfRow.movPinsY (df : BitVec 5) : FormOfRow.Statement (.movPinsY df) := ⟨rfl, rfl, rfl⟩
theorem FormOfRow.movPinsNull (df : BitVec 5) : FormOfRow.Statement (.movPinsNull df) := ⟨rfl, rfl, rfl⟩
theorem FormOfRow.movPinsStatus (df : BitVec 5) : FormOfRow.Statement (.movPinsStatus df) := ⟨rfl, rfl, rfl⟩
theorem FormOfRow.movPinsIsr (df : BitVec 5) : FormOfRow.Statement (.movPinsIsr df) := ⟨rfl, rfl, rfl⟩
theorem FormOfRow.movPinsOsr (df : BitVec 5) : FormOfRow.Statement (.movPinsOsr df) := ⟨rfl, rfl, rfl⟩
theorem FormOfRow.movPinsInvPins (df : BitVec 5) : FormOfRow.Statement (.movPinsInvPins df) := ⟨rfl, rfl, rfl⟩
theorem FormOfRow.movPinsInvX (df : BitVec 5) : FormOfRow.Statement (.movPinsInvX df) := ⟨rfl, rfl, rfl⟩
theorem FormOfRow.movPinsInvY (df : BitVec 5) : FormOfRow.Statement (.movPinsInvY df) := ⟨rfl, rfl, rfl⟩
theorem FormOfRow.movPinsInvNull (df : BitVec 5) : FormOfRow.Statement (.movPinsInvNull df) := ⟨rfl, rfl, rfl⟩
theorem FormOfRow.movPinsInvStatus (df : BitVec 5) : FormOfRow.Statement (.movPinsInvStatus df) := ⟨rfl, rfl, rfl⟩
theorem FormOfRow.movPinsInvIsr (df : BitVec 5) : FormOfRow.Statement (.movPinsInvIsr df) := ⟨rfl, rfl, rfl⟩
theorem FormOfRow.movPinsInvOsr (df : BitVec 5) : FormOfRow.Statement (.movPinsInvOsr df) := ⟨rfl, rfl, rfl⟩
theorem FormOfRow.movPinsRevPins (df : BitVec 5) : FormOfRow.Statement (.movPinsRevPins df) := ⟨rfl, rfl, rfl⟩
theorem FormOfRow.movPinsRevX (df : BitVec 5) : FormOfRow.Statement (.movPinsRevX df) := ⟨rfl, rfl, rfl⟩
theorem FormOfRow.movPinsRevY (df : BitVec 5) : FormOfRow.Statement (.movPinsRevY df) := ⟨rfl, rfl, rfl⟩
theorem FormOfRow.movPinsRevNull (df : BitVec 5) : FormOfRow.Statement (.movPinsRevNull df) := ⟨rfl, rfl, rfl⟩
theorem FormOfRow.movPinsRevStatus (df : BitVec 5) : FormOfRow.Statement (.movPinsRevStatus df) := ⟨rfl, rfl, rfl⟩
theorem FormOfRow.movPinsRevIsr (df : BitVec 5) : FormOfRow.Statement (.movPinsRevIsr df) := ⟨rfl, rfl, rfl⟩
theorem FormOfRow.movPinsRevOsr (df : BitVec 5) : FormOfRow.Statement (.movPinsRevOsr df) := ⟨rfl, rfl, rfl⟩
theorem FormOfRow.movXPins (df : BitVec 5) : FormOfRow.Statement (.movXPins df) := ⟨rfl, rfl, rfl⟩
theorem FormOfRow.movXX (df : BitVec 5) : FormOfRow.Statement (.movXX df) := ⟨rfl, rfl, rfl⟩
theorem FormOfRow.movXY (df : BitVec 5) : FormOfRow.Statement (.movXY df) := ⟨rfl, rfl, rfl⟩
theorem FormOfRow.movXNull (df : BitVec 5) : FormOfRow.Statement (.movXNull df) := ⟨rfl, rfl, rfl⟩
theorem FormOfRow.movXStatus (df : BitVec 5) : FormOfRow.Statement (.movXStatus df) := ⟨rfl, rfl, rfl⟩
theorem FormOfRow.movXIsr (df : BitVec 5) : FormOfRow.Statement (.movXIsr df) := ⟨rfl, rfl, rfl⟩
theorem FormOfRow.movXOsr (df : BitVec 5) : FormOfRow.Statement (.movXOsr df) := ⟨rfl, rfl, rfl⟩
theorem FormOfRow.movXInvPins (df : BitVec 5) : FormOfRow.Statement (.movXInvPins df) := ⟨rfl, rfl, rfl⟩
theorem FormOfRow.movXInvX (df : BitVec 5) : FormOfRow.Statement (.movXInvX df) := ⟨rfl, rfl, rfl⟩
theorem FormOfRow.movXInvY (df : BitVec 5) : FormOfRow.Statement (.movXInvY df) := ⟨rfl, rfl, rfl⟩
theorem FormOfRow.movXInvNull (df : BitVec 5) : FormOfRow.Statement (.movXInvNull df) := ⟨rfl, rfl, rfl⟩
theorem FormOfRow.movXInvStatus (df : BitVec 5) : FormOfRow.Statement (.movXInvStatus df) := ⟨rfl, rfl, rfl⟩
theorem FormOfRow.movXInvIsr (df : BitVec 5) : FormOfRow.Statement (.movXInvIsr df) := ⟨rfl, rfl, rfl⟩
theorem FormOfRow.movXInvOsr (df : BitVec 5) : FormOfRow.Statement (.movXInvOsr df) := ⟨rfl, rfl, rfl⟩
theorem FormOfRow.movXRevPins (df : BitVec 5) : FormOfRow.Statement (.movXRevPins df) := ⟨rfl, rfl, rfl⟩
theorem FormOfRow.movXRevX (df : BitVec 5) : FormOfRow.Statement (.movXRevX df) := ⟨rfl, rfl, rfl⟩
theorem FormOfRow.movXRevY (df : BitVec 5) : FormOfRow.Statement (.movXRevY df) := ⟨rfl, rfl, rfl⟩
theorem FormOfRow.movXRevNull (df : BitVec 5) : FormOfRow.Statement (.movXRevNull df) := ⟨rfl, rfl, rfl⟩
theorem FormOfRow.movXRevStatus (df : BitVec 5) : FormOfRow.Statement (.movXRevStatus df) := ⟨rfl, rfl, rfl⟩
theorem FormOfRow.movXRevIsr (df : BitVec 5) : FormOfRow.Statement (.movXRevIsr df) := ⟨rfl, rfl, rfl⟩
theorem FormOfRow.movXRevOsr (df : BitVec 5) : FormOfRow.Statement (.movXRevOsr df) := ⟨rfl, rfl, rfl⟩
theorem FormOfRow.movYPins (df : BitVec 5) : FormOfRow.Statement (.movYPins df) := ⟨rfl, rfl, rfl⟩
theorem FormOfRow.movYX (df : BitVec 5) : FormOfRow.Statement (.movYX df) := ⟨rfl, rfl, rfl⟩
theorem FormOfRow.movYY (df : BitVec 5) : FormOfRow.Statement (.movYY df) := ⟨rfl, rfl, rfl⟩
theorem FormOfRow.movYNull (df : BitVec 5) : FormOfRow.Statement (.movYNull df) := ⟨rfl, rfl, rfl⟩
theorem FormOfRow.movYStatus (df : BitVec 5) : FormOfRow.Statement (.movYStatus df) := ⟨rfl, rfl, rfl⟩
theorem FormOfRow.movYIsr (df : BitVec 5) : FormOfRow.Statement (.movYIsr df) := ⟨rfl, rfl, rfl⟩
theorem FormOfRow.movYOsr (df : BitVec 5) : FormOfRow.Statement (.movYOsr df) := ⟨rfl, rfl, rfl⟩
theorem FormOfRow.movYInvPins (df : BitVec 5) : FormOfRow.Statement (.movYInvPins df) := ⟨rfl, rfl, rfl⟩
theorem FormOfRow.movYInvX (df : BitVec 5) : FormOfRow.Statement (.movYInvX df) := ⟨rfl, rfl, rfl⟩
theorem FormOfRow.movYInvY (df : BitVec 5) : FormOfRow.Statement (.movYInvY df) := ⟨rfl, rfl, rfl⟩
theorem FormOfRow.movYInvNull (df : BitVec 5) : FormOfRow.Statement (.movYInvNull df) := ⟨rfl, rfl, rfl⟩
theorem FormOfRow.movYInvStatus (df : BitVec 5) : FormOfRow.Statement (.movYInvStatus df) := ⟨rfl, rfl, rfl⟩
theorem FormOfRow.movYInvIsr (df : BitVec 5) : FormOfRow.Statement (.movYInvIsr df) := ⟨rfl, rfl, rfl⟩
theorem FormOfRow.movYInvOsr (df : BitVec 5) : FormOfRow.Statement (.movYInvOsr df) := ⟨rfl, rfl, rfl⟩
theorem FormOfRow.movYRevPins (df : BitVec 5) : FormOfRow.Statement (.movYRevPins df) := ⟨rfl, rfl, rfl⟩
theorem FormOfRow.movYRevX (df : BitVec 5) : FormOfRow.Statement (.movYRevX df) := ⟨rfl, rfl, rfl⟩
theorem FormOfRow.movYRevY (df : BitVec 5) : FormOfRow.Statement (.movYRevY df) := ⟨rfl, rfl, rfl⟩
theorem FormOfRow.movYRevNull (df : BitVec 5) : FormOfRow.Statement (.movYRevNull df) := ⟨rfl, rfl, rfl⟩
theorem FormOfRow.movYRevStatus (df : BitVec 5) : FormOfRow.Statement (.movYRevStatus df) := ⟨rfl, rfl, rfl⟩
theorem FormOfRow.movYRevIsr (df : BitVec 5) : FormOfRow.Statement (.movYRevIsr df) := ⟨rfl, rfl, rfl⟩
theorem FormOfRow.movYRevOsr (df : BitVec 5) : FormOfRow.Statement (.movYRevOsr df) := ⟨rfl, rfl, rfl⟩
theorem FormOfRow.movExecPins (df : BitVec 5) : FormOfRow.Statement (.movExecPins df) := ⟨rfl, rfl, rfl⟩
theorem FormOfRow.movExecX (df : BitVec 5) : FormOfRow.Statement (.movExecX df) := ⟨rfl, rfl, rfl⟩
theorem FormOfRow.movExecY (df : BitVec 5) : FormOfRow.Statement (.movExecY df) := ⟨rfl, rfl, rfl⟩
theorem FormOfRow.movExecNull (df : BitVec 5) : FormOfRow.Statement (.movExecNull df) := ⟨rfl, rfl, rfl⟩
theorem FormOfRow.movExecStatus (df : BitVec 5) : FormOfRow.Statement (.movExecStatus df) := ⟨rfl, rfl, rfl⟩
theorem FormOfRow.movExecIsr (df : BitVec 5) : FormOfRow.Statement (.movExecIsr df) := ⟨rfl, rfl, rfl⟩
theorem FormOfRow.movExecOsr (df : BitVec 5) : FormOfRow.Statement (.movExecOsr df) := ⟨rfl, rfl, rfl⟩
theorem FormOfRow.movExecInvPins (df : BitVec 5) : FormOfRow.Statement (.movExecInvPins df) := ⟨rfl, rfl, rfl⟩
theorem FormOfRow.movExecInvX (df : BitVec 5) : FormOfRow.Statement (.movExecInvX df) := ⟨rfl, rfl, rfl⟩
theorem FormOfRow.movExecInvY (df : BitVec 5) : FormOfRow.Statement (.movExecInvY df) := ⟨rfl, rfl, rfl⟩
theorem FormOfRow.movExecInvNull (df : BitVec 5) : FormOfRow.Statement (.movExecInvNull df) := ⟨rfl, rfl, rfl⟩
theorem FormOfRow.movExecInvStatus (df : BitVec 5) : FormOfRow.Statement (.movExecInvStatus df) := ⟨rfl, rfl, rfl⟩
theorem FormOfRow.movExecInvIsr (df : BitVec 5) : FormOfRow.Statement (.movExecInvIsr df) := ⟨rfl, rfl, rfl⟩
theorem FormOfRow.movExecInvOsr (df : BitVec 5) : FormOfRow.Statement (.movExecInvOsr df) := ⟨rfl, rfl, rfl⟩
theorem FormOfRow.movExecRevPins (df : BitVec 5) : FormOfRow.Statement (.movExecRevPins df) := ⟨rfl, rfl, rfl⟩
theorem FormOfRow.movExecRevX (df : BitVec 5) : FormOfRow.Statement (.movExecRevX df) := ⟨rfl, rfl, rfl⟩
theorem FormOfRow.movExecRevY (df : BitVec 5) : FormOfRow.Statement (.movExecRevY df) := ⟨rfl, rfl, rfl⟩
theorem FormOfRow.movExecRevNull (df : BitVec 5) : FormOfRow.Statement (.movExecRevNull df) := ⟨rfl, rfl, rfl⟩
theorem FormOfRow.movExecRevStatus (df : BitVec 5) : FormOfRow.Statement (.movExecRevStatus df) := ⟨rfl, rfl, rfl⟩
theorem FormOfRow.movExecRevIsr (df : BitVec 5) : FormOfRow.Statement (.movExecRevIsr df) := ⟨rfl, rfl, rfl⟩
theorem FormOfRow.movExecRevOsr (df : BitVec 5) : FormOfRow.Statement (.movExecRevOsr df) := ⟨rfl, rfl, rfl⟩
theorem FormOfRow.movPcPins (df : BitVec 5) : FormOfRow.Statement (.movPcPins df) := ⟨rfl, rfl, rfl⟩
theorem FormOfRow.movPcX (df : BitVec 5) : FormOfRow.Statement (.movPcX df) := ⟨rfl, rfl, rfl⟩
theorem FormOfRow.movPcY (df : BitVec 5) : FormOfRow.Statement (.movPcY df) := ⟨rfl, rfl, rfl⟩
theorem FormOfRow.movPcNull (df : BitVec 5) : FormOfRow.Statement (.movPcNull df) := ⟨rfl, rfl, rfl⟩
theorem FormOfRow.movPcStatus (df : BitVec 5) : FormOfRow.Statement (.movPcStatus df) := ⟨rfl, rfl, rfl⟩
theorem FormOfRow.movPcIsr (df : BitVec 5) : FormOfRow.Statement (.movPcIsr df) := ⟨rfl, rfl, rfl⟩
theorem FormOfRow.movPcOsr (df : BitVec 5) : FormOfRow.Statement (.movPcOsr df) := ⟨rfl, rfl, rfl⟩
theorem FormOfRow.movPcInvPins (df : BitVec 5) : FormOfRow.Statement (.movPcInvPins df) := ⟨rfl, rfl, rfl⟩
theorem FormOfRow.movPcInvX (df : BitVec 5) : FormOfRow.Statement (.movPcInvX df) := ⟨rfl, rfl, rfl⟩
theorem FormOfRow.movPcInvY (df : BitVec 5) : FormOfRow.Statement (.movPcInvY df) := ⟨rfl, rfl, rfl⟩
theorem FormOfRow.movPcInvNull (df : BitVec 5) : FormOfRow.Statement (.movPcInvNull df) := ⟨rfl, rfl, rfl⟩
theorem FormOfRow.movPcInvStatus (df : BitVec 5) : FormOfRow.Statement (.movPcInvStatus df) := ⟨rfl, rfl, rfl⟩
theorem FormOfRow.movPcInvIsr (df : BitVec 5) : FormOfRow.Statement (.movPcInvIsr df) := ⟨rfl, rfl, rfl⟩
theorem FormOfRow.movPcInvOsr (df : BitVec 5) : FormOfRow.Statement (.movPcInvOsr df) := ⟨rfl, rfl, rfl⟩
theorem FormOfRow.movPcRevPins (df : BitVec 5) : FormOfRow.Statement (.movPcRevPins df) := ⟨rfl, rfl, rfl⟩
theorem FormOfRow.movPcRevX (df : BitVec 5) : FormOfRow.Statement (.movPcRevX df) := ⟨rfl, rfl, rfl⟩
theorem FormOfRow.movPcRevY (df : BitVec 5) : FormOfRow.Statement (.movPcRevY df) := ⟨rfl, rfl, rfl⟩
theorem FormOfRow.movPcRevNull (df : BitVec 5) : FormOfRow.Statement (.movPcRevNull df) := ⟨rfl, rfl, rfl⟩
theorem FormOfRow.movPcRevStatus (df : BitVec 5) : FormOfRow.Statement (.movPcRevStatus df) := ⟨rfl, rfl, rfl⟩
theorem FormOfRow.movPcRevIsr (df : BitVec 5) : FormOfRow.Statement (.movPcRevIsr df) := ⟨rfl, rfl, rfl⟩
theorem FormOfRow.movPcRevOsr (df : BitVec 5) : FormOfRow.Statement (.movPcRevOsr df) := ⟨rfl, rfl, rfl⟩
theorem FormOfRow.movIsrPins (df : BitVec 5) : FormOfRow.Statement (.movIsrPins df) := ⟨rfl, rfl, rfl⟩
theorem FormOfRow.movIsrX (df : BitVec 5) : FormOfRow.Statement (.movIsrX df) := ⟨rfl, rfl, rfl⟩
theorem FormOfRow.movIsrY (df : BitVec 5) : FormOfRow.Statement (.movIsrY df) := ⟨rfl, rfl, rfl⟩
theorem FormOfRow.movIsrNull (df : BitVec 5) : FormOfRow.Statement (.movIsrNull df) := ⟨rfl, rfl, rfl⟩
theorem FormOfRow.movIsrStatus (df : BitVec 5) : FormOfRow.Statement (.movIsrStatus df) := ⟨rfl, rfl, rfl⟩
theorem FormOfRow.movIsrIsr (df : BitVec 5) : FormOfRow.Statement (.movIsrIsr df) := ⟨rfl, rfl, rfl⟩
theorem FormOfRow.movIsrOsr (df : BitVec 5) : FormOfRow.Statement (.movIsrOsr df) := ⟨rfl, rfl, rfl⟩
theorem FormOfRow.movIsrInvPins (df : BitVec 5) : FormOfRow.Statement (.movIsrInvPins df) := ⟨rfl, rfl, rfl⟩
theorem FormOfRow.movIsrInvX (df : BitVec 5) : FormOfRow.Statement (.movIsrInvX df) := ⟨rfl, rfl, rfl⟩
theorem FormOfRow.movIsrInvY (df : BitVec 5) : FormOfRow.Statement (.movIsrInvY df) := ⟨rfl, rfl, rfl⟩
theorem FormOfRow.movIsrInvNull (df : BitVec 5) : FormOfRow.Statement (.movIsrInvNull df) := ⟨rfl, rfl, rfl⟩
theorem FormOfRow.movIsrInvStatus (df : BitVec 5) : FormOfRow.Statement (.movIsrInvStatus df) := ⟨rfl, rfl, rfl⟩
theorem FormOfRow.movIsrInvIsr (df : BitVec 5) : FormOfRow.Statement (.movIsrInvIsr df) := ⟨rfl, rfl, rfl⟩
theorem FormOfRow.movIsrInvOsr (df : BitVec 5) : FormOfRow.Statement (.movIsrInvOsr df) := ⟨rfl, rfl, rfl⟩
theorem FormOfRow.movIsrRevPins (df : BitVec 5) : FormOfRow.Statement (.movIsrRevPins df) := ⟨rfl, rfl, rfl⟩
theorem FormOfRow.movIsrRevX (df : BitVec 5) : FormOfRow.Statement (.movIsrRevX df) := ⟨rfl, rfl, rfl⟩
theorem FormOfRow.movIsrRevY (df : BitVec 5) : FormOfRow.Statement (.movIsrRevY df) := ⟨rfl, rfl, rfl⟩
theorem FormOfRow.movIsrRevNull (df : BitVec 5) : FormOfRow.Statement (.movIsrRevNull df) := ⟨rfl, rfl, rfl⟩
theorem FormOfRow.movIsrRevStatus (df : BitVec 5) : FormOfRow.Statement (.movIsrRevStatus df) := ⟨rfl, rfl, rfl⟩
theorem FormOfRow.movIsrRevIsr (df : BitVec 5) : FormOfRow.Statement (.movIsrRevIsr df) := ⟨rfl, rfl, rfl⟩
theorem FormOfRow.movIsrRevOsr (df : BitVec 5) : FormOfRow.Statement (.movIsrRevOsr df) := ⟨rfl, rfl, rfl⟩
theorem FormOfRow.movOsrPins (df : BitVec 5) : FormOfRow.Statement (.movOsrPins df) := ⟨rfl, rfl, rfl⟩
theorem FormOfRow.movOsrX (df : BitVec 5) : FormOfRow.Statement (.movOsrX df) := ⟨rfl, rfl, rfl⟩
theorem FormOfRow.movOsrY (df : BitVec 5) : FormOfRow.Statement (.movOsrY df) := ⟨rfl, rfl, rfl⟩
theorem FormOfRow.movOsrNull (df : BitVec 5) : FormOfRow.Statement (.movOsrNull df) := ⟨rfl, rfl, rfl⟩
theorem FormOfRow.movOsrStatus (df : BitVec 5) : FormOfRow.Statement (.movOsrStatus df) := ⟨rfl, rfl, rfl⟩
theorem FormOfRow.movOsrIsr (df : BitVec 5) : FormOfRow.Statement (.movOsrIsr df) := ⟨rfl, rfl, rfl⟩
theorem FormOfRow.movOsrOsr (df : BitVec 5) : FormOfRow.Statement (.movOsrOsr df) := ⟨rfl, rfl, rfl⟩
theorem FormOfRow.movOsrInvPins (df : BitVec 5) : FormOfRow.Statement (.movOsrInvPins df) := ⟨rfl, rfl, rfl⟩
theorem FormOfRow.movOsrInvX (df : BitVec 5) : FormOfRow.Statement (.movOsrInvX df) := ⟨rfl, rfl, rfl⟩
theorem FormOfRow.movOsrInvY (df : BitVec 5) : FormOfRow.Statement (.movOsrInvY df) := ⟨rfl, rfl, rfl⟩
theorem FormOfRow.movOsrInvNull (df : BitVec 5) : FormOfRow.Statement (.movOsrInvNull df) := ⟨rfl, rfl, rfl⟩
theorem FormOfRow.movOsrInvStatus (df : BitVec 5) : FormOfRow.Statement (.movOsrInvStatus df) := ⟨rfl, rfl, rfl⟩
theorem FormOfRow.movOsrInvIsr (df : BitVec 5) : FormOfRow.Statement (.movOsrInvIsr df) := ⟨rfl, rfl, rfl⟩
theorem FormOfRow.movOsrInvOsr (df : BitVec 5) : FormOfRow.Statement (.movOsrInvOsr df) := ⟨rfl, rfl, rfl⟩
theorem FormOfRow.movOsrRevPins (df : BitVec 5) : FormOfRow.Statement (.movOsrRevPins df) := ⟨rfl, rfl, rfl⟩
theorem FormOfRow.movOsrRevX (df : BitVec 5) : FormOfRow.Statement (.movOsrRevX df) := ⟨rfl, rfl, rfl⟩
theorem FormOfRow.movOsrRevY (df : BitVec 5) : FormOfRow.Statement (.movOsrRevY df) := ⟨rfl, rfl, rfl⟩
theorem FormOfRow.movOsrRevNull (df : BitVec 5) : FormOfRow.Statement (.movOsrRevNull df) := ⟨rfl, rfl, rfl⟩
theorem FormOfRow.movOsrRevStatus (df : BitVec 5) : FormOfRow.Statement (.movOsrRevStatus df) := ⟨rfl, rfl, rfl⟩
theorem FormOfRow.movOsrRevIsr (df : BitVec 5) : FormOfRow.Statement (.movOsrRevIsr df) := ⟨rfl, rfl, rfl⟩
theorem FormOfRow.movOsrRevOsr (df : BitVec 5) : FormOfRow.Statement (.movOsrRevOsr df) := ⟨rfl, rfl, rfl⟩
theorem FormOfRow.irqSet (df : BitVec 5) (index : BitVec 3) : FormOfRow.Statement (.irqSet df index) := ⟨rfl, rfl, rfl⟩
theorem FormOfRow.irqSetRel (df : BitVec 5) (index : BitVec 2) : FormOfRow.Statement (.irqSetRel df index) := ⟨rfl, rfl, rfl⟩
theorem FormOfRow.irqWait (df : BitVec 5) (index : BitVec 3) : FormOfRow.Statement (.irqWait df index) := ⟨rfl, rfl, rfl⟩
theorem FormOfRow.irqWaitRel (df : BitVec 5) (index : BitVec 2) : FormOfRow.Statement (.irqWaitRel df index) := ⟨rfl, rfl, rfl⟩
theorem FormOfRow.irqClear (df : BitVec 5) (wait : Bool) (index : BitVec 3) : FormOfRow.Statement (.irqClear df wait index) := ⟨rfl, rfl, rfl⟩
theorem FormOfRow.irqClearRel (df : BitVec 5) (wait : Bool) (index : BitVec 2) : FormOfRow.Statement (.irqClearRel df wait index) := ⟨rfl, rfl, rfl⟩
theorem FormOfRow.setPins (df : BitVec 5) (data : BitVec 5) : FormOfRow.Statement (.setPins df data) := ⟨rfl, rfl, rfl⟩
theorem FormOfRow.setX (df : BitVec 5) (data : BitVec 5) : FormOfRow.Statement (.setX df data) := ⟨rfl, rfl, rfl⟩
theorem FormOfRow.setY (df : BitVec 5) (data : BitVec 5) : FormOfRow.Statement (.setY df data) := ⟨rfl, rfl, rfl⟩
theorem FormOfRow.setPindirs (df : BitVec 5) (data : BitVec 5) : FormOfRow.Statement (.setPindirs df data) := ⟨rfl, rfl, rfl⟩
theorem FormOfRow.reservedWaitSource3 (df : BitVec 5) (lsb : Byte) : FormOfRow.Statement (.reservedWaitSource3 df lsb) := ⟨rfl, rfl, rfl⟩
theorem FormOfRow.reservedWaitIrqIndexBit3 (df : BitVec 5) (lsb : Byte) : FormOfRow.Statement (.reservedWaitIrqIndexBit3 df lsb) := ⟨rfl, rfl, rfl⟩
theorem FormOfRow.reservedWaitIrqIndexBits4And2 (df : BitVec 5) (lsb : Byte) : FormOfRow.Statement (.reservedWaitIrqIndexBits4And2 df lsb) := ⟨rfl, rfl, rfl⟩
theorem FormOfRow.reservedInSources4And5 (df : BitVec 5) (lsb : Byte) : FormOfRow.Statement (.reservedInSources4And5 df lsb) := ⟨rfl, rfl, rfl⟩
theorem FormOfRow.reservedPushPullBit0 (df : BitVec 5) (lsb : Byte) : FormOfRow.Statement (.reservedPushPullBit0 df lsb) := ⟨rfl, rfl, rfl⟩
theorem FormOfRow.reservedPushPullBit1 (df : BitVec 5) (lsb : Byte) : FormOfRow.Statement (.reservedPushPullBit1 df lsb) := ⟨rfl, rfl, rfl⟩
theorem FormOfRow.reservedPushPullBit2 (df : BitVec 5) (lsb : Byte) : FormOfRow.Statement (.reservedPushPullBit2 df lsb) := ⟨rfl, rfl, rfl⟩
theorem FormOfRow.reservedPushPullBit3 (df : BitVec 5) (lsb : Byte) : FormOfRow.Statement (.reservedPushPullBit3 df lsb) := ⟨rfl, rfl, rfl⟩
theorem FormOfRow.reservedPushPullBit4 (df : BitVec 5) (lsb : Byte) : FormOfRow.Statement (.reservedPushPullBit4 df lsb) := ⟨rfl, rfl, rfl⟩
theorem FormOfRow.reservedMovDestination3 (df : BitVec 5) (lsb : Byte) : FormOfRow.Statement (.reservedMovDestination3 df lsb) := ⟨rfl, rfl, rfl⟩
theorem FormOfRow.reservedMovOp3 (df : BitVec 5) (lsb : Byte) : FormOfRow.Statement (.reservedMovOp3 df lsb) := ⟨rfl, rfl, rfl⟩
theorem FormOfRow.reservedMovSource4 (df : BitVec 5) (lsb : Byte) : FormOfRow.Statement (.reservedMovSource4 df lsb) := ⟨rfl, rfl, rfl⟩
theorem FormOfRow.reservedIrqBit7 (df : BitVec 5) (lsb : Byte) : FormOfRow.Statement (.reservedIrqBit7 df lsb) := ⟨rfl, rfl, rfl⟩
theorem FormOfRow.reservedIrqIndexBit3 (df : BitVec 5) (lsb : Byte) : FormOfRow.Statement (.reservedIrqIndexBit3 df lsb) := ⟨rfl, rfl, rfl⟩
theorem FormOfRow.reservedIrqIndexBits4And2 (df : BitVec 5) (lsb : Byte) : FormOfRow.Statement (.reservedIrqIndexBits4And2 df lsb) := ⟨rfl, rfl, rfl⟩
theorem FormOfRow.reservedSetDestination3 (df : BitVec 5) (lsb : Byte) : FormOfRow.Statement (.reservedSetDestination3 df lsb) := ⟨rfl, rfl, rfl⟩
theorem FormOfRow.reservedSetDestination5 (df : BitVec 5) (lsb : Byte) : FormOfRow.Statement (.reservedSetDestination5 df lsb) := ⟨rfl, rfl, rfl⟩
theorem FormOfRow.reservedSetDestinations6And7 (df : BitVec 5) (lsb : Byte) : FormOfRow.Statement (.reservedSetDestinations6And7 df lsb) := ⟨rfl, rfl, rfl⟩

end Sys2Proof.Laws
end

