-- ==== Sys2Proof/Laws/Tick.lean ====
section
/-! SUPPORT. The tick by cases (49_engine.md R292), the edges of other SMs, and runs. -/

namespace Sys2Proof.Machine

theorem SM.running_iff (m : SM) :
    m.running = true ↔ m.enabled = true ∧ m.clockEnabled = true ∧ m.fault = none := by
  simp [SM.running, and_assoc]

/-- R292 step 1. -/
theorem tick_gated {s : State} (h : (s.sm s.cur).running = false) : tick s = .next s := by
  simp [tick, h]

/-- R292 step 2. -/
theorem tick_delay {s : State} (h : (s.sm s.cur).running = true) (hd : 0 < (s.sm s.cur).pendingDelay) :
    tick s = .next (s.setCurSm { s.sm s.cur with pendingDelay := (s.sm s.cur).pendingDelay - 1 }) := by
  simp [tick, h, hd]

/-- R292 steps 3 to 8. -/
theorem tick_fetches {s : State} (h : (s.sm s.cur).Fetches) : tick s = s.fetchAndExec := by
  have hr : (s.sm s.cur).running = true := (SM.running_iff _).2 ⟨h.enabled, h.clockEnabled, h.fault⟩
  simp [tick, hr, h.delay]

/-- The word of this tick (R293). -/
def State.word (s : State) : InstrWord :=
  match (s.sm s.cur).pendingInstruction with
  | some w => w
  | none => readByte s.shared.imem (2 * (s.sm s.cur).pc.toNat + 1) ++ readByte s.shared.imem (2 * (s.sm s.cur).pc.toNat)

/-- A fetch never fails (R71). -/
theorem State.fetchAndExec_eq (s : State) : s.fetchAndExec = exec (decodeWord s.word) s.emptySlot := by
  have hpc := (s.sm s.cur).pc.isLt
  simp only [State.fetchAndExec, View.fetchWord, State.word, State.view_sm, State.view_shared]
  cases h : (s.sm s.cur).pendingInstruction with
  | some w => rfl
  | none => simp only [memoryGet_eq _ hpc]

/-- Everything a tick can be. -/
theorem tick_cases (s : State) :
    ((s.sm s.cur).running = false ∧ tick s = .next s) ∨
    ((s.sm s.cur).running = true ∧ 0 < (s.sm s.cur).pendingDelay ∧
      tick s = .next (s.setCurSm { s.sm s.cur with pendingDelay := (s.sm s.cur).pendingDelay - 1 })) ∨
    ((s.sm s.cur).Fetches ∧ tick s = exec (decodeWord s.word) s.emptySlot) := by
  cases h : (s.sm s.cur).running with
  | false => exact .inl ⟨rfl, tick_gated h⟩
  | true =>
    by_cases hd : 0 < (s.sm s.cur).pendingDelay
    · exact .inr (.inl ⟨rfl, hd, tick_delay h hd⟩)
    · obtain ⟨h1, h2, h3⟩ := (SM.running_iff _).1 h
      have hf : (s.sm s.cur).Fetches := ⟨h1, h2, h3, by omega⟩
      exact .inr (.inr ⟨hf, by rw [tick_fetches hf, State.fetchAndExec_eq]⟩)

@[simp] theorem State.emptySlot_cur (s : State) : s.emptySlot.cur = s.cur := rfl
@[simp] theorem State.emptySlot_shared (s : State) : s.emptySlot.shared = s.shared := rfl
@[simp] theorem State.emptySlot_params (s : State) : s.emptySlot.params = s.params := rfl
@[simp] theorem State.emptySlot_events (s : State) : s.emptySlot.events = s.events := rfl
@[simp] theorem State.emptySlot_reply (s : State) : s.emptySlot.reply = s.reply := rfl
@[simp] theorem State.emptySlot_sm_cur (s : State) :
    s.emptySlot.sm s.cur = { s.sm s.cur with pendingInstruction := none } := s.sm_setSm_self _ _

theorem State.emptySlot_sm_ne (s : State) {n : Fin 4} (h : n ≠ s.cur) : s.emptySlot.sm n = s.sm n :=
  s.sm_setSm_ne _ h

/-- An empty slot stays as it is. -/
theorem State.emptySlot_of_none {s : State} (h : (s.sm s.cur).pendingInstruction = none) : s.emptySlot = s := by
  refine State.ext_sm rfl (fun n => ?_) rfl rfl rfl rfl
  by_cases hn : n = s.cur
  · subst hn
    rw [State.emptySlot_sm_cur, ← h]
  · exact s.emptySlot_sm_ne hn

/-- An SM whose two bytes at the PC decode to `i` fetches `i`. -/
theorem State.word_of_code {s : State} {i : Instr} (hp : (s.sm s.cur).pendingInstruction = none)
    (hc : s.CodeAt (s.sm s.cur) i) : decodeWord s.word = i := by
  simp only [State.CodeAt, decode, wordOfBytes] at hc
  injection hc with hc
  injection hc with hc _
  rw [← hc, State.word, hp]

/-- A step with nothing listed. -/
theorem step_nil {s : State} (h : s.events = []) : step s = tick s := by
  simp only [step, h]

theorem step_cons {s : State} {e : Event} {rest : List Event} (h : s.events = e :: rest) :
    step s = applyEvent e { s with events := rest } := by
  simp only [step, h]

/-- An edge event is a tick of its SM. -/
theorem edge_of_tick {n : Fin 4} {s t : State} (h : tick { s with cur := n } = .next t) :
    edge n s = .next { t with cur := s.cur } := by
  simp only [edge, h]

theorem edge_next {n : Fin 4} {s t : State} (h : edge n s = .next t) :
    ∃ u, tick { s with cur := n } = .next u ∧ t = { u with cur := s.cur } := by
  simp only [edge] at h
  split at h
  · next u hu => injection h with h; exact ⟨u, hu, h.symm⟩
  · cases h
  · cases h

/-- A listed edge of an SM that fetches runs the word of that SM, with its slot empty. -/
theorem step_edge {s t : State} {n : Fin 4} {rest : List Event} (he : s.events = .edge n :: rest) (hf : (s.sm n).Fetches)
    (h : exec (decodeWord { s with events := rest, cur := n }.word) { s with events := rest, cur := n }.emptySlot = .next t) :
    step s = .next { t with cur := s.cur } := by
  rw [step_cons he]
  refine edge_of_tick (s := { s with events := rest }) ?_
  change tick { s with events := rest, cur := n } = _
  rw [tick_fetches (s := { s with events := rest, cur := n }) hf, State.fetchAndExec_eq, h]

/-- The other way: what such an edge answers is what that word left. -/
theorem step_edge_next {s t : State} {n : Fin 4} {rest : List Event} (he : s.events = .edge n :: rest)
    (hf : (s.sm n).Fetches) (h : step s = .next t) :
    ∃ u, exec (decodeWord { s with events := rest, cur := n }.word) { s with events := rest, cur := n }.emptySlot = .next u ∧
      t = { u with cur := s.cur } := by
  rw [step_cons he] at h
  obtain ⟨u, hu, ht⟩ := edge_next (s := { s with events := rest }) h
  refine ⟨u, ?_, ht⟩
  change tick { s with events := rest, cur := n } = _ at hu
  rwa [tick_fetches (s := { s with events := rest, cur := n }) hf, State.fetchAndExec_eq] at hu

theorem run_zero (s : State) : Host.Core.run core 0 s = .next s := rfl

/-- A run of one step and then `k` more. -/
theorem run_succ {k : Nat} {s t : State} (h : step s = .next t) : Host.Core.run core (k + 1) s = Host.Core.run core k t := by
  have h' : core.step s = .next t := h
  simp only [Host.Core.run, h']

theorem run_succ_next {k : Nat} {s u : State} (h : Host.Core.run core (k + 1) s = .next u) :
    ∃ t : State, step s = .next t ∧ Host.Core.run core k t = .next u := by
  simp only [Host.Core.run] at h
  split at h
  · next t ht => exact ⟨t, ht, h⟩
  · cases h
  · cases h

end Sys2Proof.Machine
end

