-- ==== Sys2Proof/Tests/Slice0.lean ====
section
/-! SUPPORT. Tests: the checks of WellFormed, a word of every constructor written out from the encoding tables, single
steps with the results of spec/95_test_vectors.md, and a witness for the hypotheses of every obligation that has some. -/

namespace Sys2Proof.Tests

open Sys2Proof Sys2Proof.Machine

/-! ### The checks of WellFormed refuse ill-formed terms -/

theorem test_wf_in_count_zero : ¬ (Instr.inX 0 0).WellFormed := by decide
theorem test_wf_in_count_33 : ¬ (Instr.inPins 0 33).WellFormed := by decide
theorem test_wf_out_count_zero : ¬ (Instr.outPc 0 0).WellFormed := by decide
theorem test_wf_out_count_33 : ¬ (Instr.outExec 31 33).WellFormed := by decide
/-- Low bits that the row does not select. -/
theorem test_wf_reserved_other_lsb : ¬ (Instr.reservedMovOp3 0 0x08).WellFormed := by decide
/-- Low bits that an earlier row of the class claims (R129). -/
theorem test_wf_reserved_earlier_row : ¬ (Instr.reservedPushPullBit1 0 0x03).WellFormed := by decide
theorem test_wf_bounds : (Instr.inX 0 1).WellFormed ∧ (Instr.outExec 31 32).WellFormed ∧
    (Instr.reservedMovOp3 0 0x18).WellFormed := by decide

/-! ### Decoding: the words are written out as opcode, delay/side-set and low bits, from R111 and R116 to R128 -/

/-- Every word of the list decodes to the instruction beside it. -/
def decodes (l : List (InstrWord × Instr)) : Bool := l.all fun p => decodeWord p.1 == p.2

/-- R117: the condition in bits 7 to 5, the address in bits 4 to 0. -/
theorem test_decode_jmp : decodes [
    (0b0000000000000101#16, .jmp 0 5),
    (0b0000000100100110#16, .jmpNotX 1 6),
    (0b0000001001000111#16, .jmpXDec 2 7),
    (0b0000001101101000#16, .jmpNotY 3 8),
    (0b0000010010001001#16, .jmpYDec 4 9),
    (0b0000010110101010#16, .jmpXNeY 5 10),
    (0b0000011011001011#16, .jmpPin 6 11),
    (0b0000011111101100#16, .jmpNotOsre 7 12)] = true := by decide

/-- R118, R127: the polarity in bit 7, the source in bits 6 and 5, the index in bits 4 to 0. -/
theorem test_decode_wait : decodes [
    (0b0010001110011111#16, .waitGpio 3 true 31),
    (0b0010000000100010#16, .waitPin 0 false 2),
    (0b0010000011000111#16, .waitIrq 0 true 7),
    (0b0011111101010011#16, .waitIrqRel 31 false 3)] = true := by decide

/-- R119, R126: the source in bits 7 to 5, the count in bits 4 to 0, 0 standing for 32. -/
theorem test_decode_in : decodes [
    (0b0100000100001000#16, .inPins 1 8),
    (0b0100000100100000#16, .inX 1 32),
    (0b0100000101000100#16, .inY 1 4),
    (0b0100000101100001#16, .inNull 1 1),
    (0b0100000111011111#16, .inIsr 1 31),
    (0b0100000111110000#16, .inOsr 1 16)] = true := by decide

/-- R120, R126: the destination in bits 7 to 5, the count in bits 4 to 0. -/
theorem test_decode_out : decodes [
    (0b0110001000001000#16, .outPins 2 8),
    (0b0110001000100000#16, .outX 2 32),
    (0b0110001001000001#16, .outY 2 1),
    (0b0110001001110000#16, .outNull 2 16),
    (0b0110001010000100#16, .outPindirs 2 4),
    (0b0110001010100101#16, .outPc 2 5),
    (0b0110001011011111#16, .outIsr 2 31),
    (0b0110001011100000#16, .outExec 2 32)] = true := by decide

/-- R121, R122: bit 7 tells PULL from PUSH, bit 6 is the condition, bit 5 the block bit. -/
theorem test_decode_push_pull : decodes [
    (0b1000000000100000#16, .push 0 false true),
    (0b1000100101000000#16, .push 9 true false),
    (0b1000000010000000#16, .pull 0 false false),
    (0b1000000011100000#16, .pull 0 true true)] = true := by decide

/-- R123: destination 0 in bits 7 to 5, the op in bits 4 and 3, the source in bits 2 to 0. -/
theorem test_decode_mov_pins : decodes [
    (0b1010000000000000#16, .movPinsPins 0),
    (0b1010000000000001#16, .movPinsX 0),
    (0b1010000000000010#16, .movPinsY 0),
    (0b1010000000000011#16, .movPinsNull 0),
    (0b1010000000000101#16, .movPinsStatus 0),
    (0b1010000000000110#16, .movPinsIsr 0),
    (0b1010000000000111#16, .movPinsOsr 0),
    (0b1010000000001000#16, .movPinsInvPins 0),
    (0b1010000000001001#16, .movPinsInvX 0),
    (0b1010000000001010#16, .movPinsInvY 0),
    (0b1010000000001011#16, .movPinsInvNull 0),
    (0b1010000000001101#16, .movPinsInvStatus 0),
    (0b1010000000001110#16, .movPinsInvIsr 0),
    (0b1010000000001111#16, .movPinsInvOsr 0),
    (0b1010000000010000#16, .movPinsRevPins 0),
    (0b1010000000010001#16, .movPinsRevX 0),
    (0b1010000000010010#16, .movPinsRevY 0),
    (0b1010000000010011#16, .movPinsRevNull 0),
    (0b1010000000010101#16, .movPinsRevStatus 0),
    (0b1010000000010110#16, .movPinsRevIsr 0),
    (0b1010000000010111#16, .movPinsRevOsr 0)] = true := by decide

/-- R123: destination 1 in bits 7 to 5, the op in bits 4 and 3, the source in bits 2 to 0. -/
theorem test_decode_mov_x : decodes [
    (0b1010000100100000#16, .movXPins 1),
    (0b1010000100100001#16, .movXX 1),
    (0b1010000100100010#16, .movXY 1),
    (0b1010000100100011#16, .movXNull 1),
    (0b1010000100100101#16, .movXStatus 1),
    (0b1010000100100110#16, .movXIsr 1),
    (0b1010000100100111#16, .movXOsr 1),
    (0b1010000100101000#16, .movXInvPins 1),
    (0b1010000100101001#16, .movXInvX 1),
    (0b1010000100101010#16, .movXInvY 1),
    (0b1010000100101011#16, .movXInvNull 1),
    (0b1010000100101101#16, .movXInvStatus 1),
    (0b1010000100101110#16, .movXInvIsr 1),
    (0b1010000100101111#16, .movXInvOsr 1),
    (0b1010000100110000#16, .movXRevPins 1),
    (0b1010000100110001#16, .movXRevX 1),
    (0b1010000100110010#16, .movXRevY 1),
    (0b1010000100110011#16, .movXRevNull 1),
    (0b1010000100110101#16, .movXRevStatus 1),
    (0b1010000100110110#16, .movXRevIsr 1),
    (0b1010000100110111#16, .movXRevOsr 1)] = true := by decide

/-- R123: destination 2 in bits 7 to 5, the op in bits 4 and 3, the source in bits 2 to 0. -/
theorem test_decode_mov_y : decodes [
    (0b1010001001000000#16, .movYPins 2),
    (0b1010001001000001#16, .movYX 2),
    (0b1010001001000010#16, .movYY 2),
    (0b1010001001000011#16, .movYNull 2),
    (0b1010001001000101#16, .movYStatus 2),
    (0b1010001001000110#16, .movYIsr 2),
    (0b1010001001000111#16, .movYOsr 2),
    (0b1010001001001000#16, .movYInvPins 2),
    (0b1010001001001001#16, .movYInvX 2),
    (0b1010001001001010#16, .movYInvY 2),
    (0b1010001001001011#16, .movYInvNull 2),
    (0b1010001001001101#16, .movYInvStatus 2),
    (0b1010001001001110#16, .movYInvIsr 2),
    (0b1010001001001111#16, .movYInvOsr 2),
    (0b1010001001010000#16, .movYRevPins 2),
    (0b1010001001010001#16, .movYRevX 2),
    (0b1010001001010010#16, .movYRevY 2),
    (0b1010001001010011#16, .movYRevNull 2),
    (0b1010001001010101#16, .movYRevStatus 2),
    (0b1010001001010110#16, .movYRevIsr 2),
    (0b1010001001010111#16, .movYRevOsr 2)] = true := by decide

/-- R123: destination 4 in bits 7 to 5, the op in bits 4 and 3, the source in bits 2 to 0. -/
theorem test_decode_mov_exec : decodes [
    (0b1010010010000000#16, .movExecPins 4),
    (0b1010010010000001#16, .movExecX 4),
    (0b1010010010000010#16, .movExecY 4),
    (0b1010010010000011#16, .movExecNull 4),
    (0b1010010010000101#16, .movExecStatus 4),
    (0b1010010010000110#16, .movExecIsr 4),
    (0b1010010010000111#16, .movExecOsr 4),
    (0b1010010010001000#16, .movExecInvPins 4),
    (0b1010010010001001#16, .movExecInvX 4),
    (0b1010010010001010#16, .movExecInvY 4),
    (0b1010010010001011#16, .movExecInvNull 4),
    (0b1010010010001101#16, .movExecInvStatus 4),
    (0b1010010010001110#16, .movExecInvIsr 4),
    (0b1010010010001111#16, .movExecInvOsr 4),
    (0b1010010010010000#16, .movExecRevPins 4),
    (0b1010010010010001#16, .movExecRevX 4),
    (0b1010010010010010#16, .movExecRevY 4),
    (0b1010010010010011#16, .movExecRevNull 4),
    (0b1010010010010101#16, .movExecRevStatus 4),
    (0b1010010010010110#16, .movExecRevIsr 4),
    (0b1010010010010111#16, .movExecRevOsr 4)] = true := by decide

/-- R123: destination 5 in bits 7 to 5, the op in bits 4 and 3, the source in bits 2 to 0. -/
theorem test_decode_mov_pc : decodes [
    (0b1010010110100000#16, .movPcPins 5),
    (0b1010010110100001#16, .movPcX 5),
    (0b1010010110100010#16, .movPcY 5),
    (0b1010010110100011#16, .movPcNull 5),
    (0b1010010110100101#16, .movPcStatus 5),
    (0b1010010110100110#16, .movPcIsr 5),
    (0b1010010110100111#16, .movPcOsr 5),
    (0b1010010110101000#16, .movPcInvPins 5),
    (0b1010010110101001#16, .movPcInvX 5),
    (0b1010010110101010#16, .movPcInvY 5),
    (0b1010010110101011#16, .movPcInvNull 5),
    (0b1010010110101101#16, .movPcInvStatus 5),
    (0b1010010110101110#16, .movPcInvIsr 5),
    (0b1010010110101111#16, .movPcInvOsr 5),
    (0b1010010110110000#16, .movPcRevPins 5),
    (0b1010010110110001#16, .movPcRevX 5),
    (0b1010010110110010#16, .movPcRevY 5),
    (0b1010010110110011#16, .movPcRevNull 5),
    (0b1010010110110101#16, .movPcRevStatus 5),
    (0b1010010110110110#16, .movPcRevIsr 5),
    (0b1010010110110111#16, .movPcRevOsr 5)] = true := by decide

/-- R123: destination 6 in bits 7 to 5, the op in bits 4 and 3, the source in bits 2 to 0. -/
theorem test_decode_mov_isr : decodes [
    (0b1010011011000000#16, .movIsrPins 6),
    (0b1010011011000001#16, .movIsrX 6),
    (0b1010011011000010#16, .movIsrY 6),
    (0b1010011011000011#16, .movIsrNull 6),
    (0b1010011011000101#16, .movIsrStatus 6),
    (0b1010011011000110#16, .movIsrIsr 6),
    (0b1010011011000111#16, .movIsrOsr 6),
    (0b1010011011001000#16, .movIsrInvPins 6),
    (0b1010011011001001#16, .movIsrInvX 6),
    (0b1010011011001010#16, .movIsrInvY 6),
    (0b1010011011001011#16, .movIsrInvNull 6),
    (0b1010011011001101#16, .movIsrInvStatus 6),
    (0b1010011011001110#16, .movIsrInvIsr 6),
    (0b1010011011001111#16, .movIsrInvOsr 6),
    (0b1010011011010000#16, .movIsrRevPins 6),
    (0b1010011011010001#16, .movIsrRevX 6),
    (0b1010011011010010#16, .movIsrRevY 6),
    (0b1010011011010011#16, .movIsrRevNull 6),
    (0b1010011011010101#16, .movIsrRevStatus 6),
    (0b1010011011010110#16, .movIsrRevIsr 6),
    (0b1010011011010111#16, .movIsrRevOsr 6)] = true := by decide

/-- R123: destination 7 in bits 7 to 5, the op in bits 4 and 3, the source in bits 2 to 0. -/
theorem test_decode_mov_osr : decodes [
    (0b1010011111100000#16, .movOsrPins 7),
    (0b1010011111100001#16, .movOsrX 7),
    (0b1010011111100010#16, .movOsrY 7),
    (0b1010011111100011#16, .movOsrNull 7),
    (0b1010011111100101#16, .movOsrStatus 7),
    (0b1010011111100110#16, .movOsrIsr 7),
    (0b1010011111100111#16, .movOsrOsr 7),
    (0b1010011111101000#16, .movOsrInvPins 7),
    (0b1010011111101001#16, .movOsrInvX 7),
    (0b1010011111101010#16, .movOsrInvY 7),
    (0b1010011111101011#16, .movOsrInvNull 7),
    (0b1010011111101101#16, .movOsrInvStatus 7),
    (0b1010011111101110#16, .movOsrInvIsr 7),
    (0b1010011111101111#16, .movOsrInvOsr 7),
    (0b1010011111110000#16, .movOsrRevPins 7),
    (0b1010011111110001#16, .movOsrRevX 7),
    (0b1010011111110010#16, .movOsrRevY 7),
    (0b1010011111110011#16, .movOsrRevNull 7),
    (0b1010011111110101#16, .movOsrRevStatus 7),
    (0b1010011111110110#16, .movOsrRevIsr 7),
    (0b1010011111110111#16, .movOsrRevOsr 7)] = true := by decide

/-- R124, R127: `clr` in bit 6, `wait` in bit 5, the index in bits 4 to 0. -/
theorem test_decode_irq : decodes [
    (0b1100000000000011#16, .irqSet 0 3),
    (0b1100000000010010#16, .irqSetRel 0 2),
    (0b1100000000100001#16, .irqWait 0 1),
    (0b1100010000110011#16, .irqWaitRel 4 3),
    (0b1100000001000010#16, .irqClear 0 false 2),
    (0b1100000001100101#16, .irqClear 0 true 5),
    (0b1100000001010001#16, .irqClearRel 0 false 1)] = true := by decide

/-- R125: the destination in bits 7 to 5, the data in bits 4 to 0. -/
theorem test_decode_set : decodes [
    (0b1110001100011111#16, .setPins 3 31),
    (0b1110001100100001#16, .setX 3 1),
    (0b1110001101000111#16, .setY 3 7),
    (0b1110001110010000#16, .setPindirs 3 16)] = true := by decide

/-- R128, R129: a word of every RESERVED row; several are reserved for more than one reason. -/
theorem test_decode_reserved : decodes [
    (0b0010011001101010#16, .reservedWaitSource3 6 0x6A),
    (0b0010011011001000#16, .reservedWaitIrqIndexBit3 6 0xC8),
    (0b0010011001010100#16, .reservedWaitIrqIndexBits4And2 6 0x54),
    (0b0100011010100000#16, .reservedInSources4And5 6 0xA0),
    (0b1000011000011111#16, .reservedPushPullBit0 6 0x1F),
    (0b1000011010000010#16, .reservedPushPullBit1 6 0x82),
    (0b1000011000100100#16, .reservedPushPullBit2 6 0x24),
    (0b1000011000001000#16, .reservedPushPullBit3 6 0x08),
    (0b1000011000010000#16, .reservedPushPullBit4 6 0x10),
    (0b1010011001111100#16, .reservedMovDestination3 6 0x7C),
    (0b1010011000111111#16, .reservedMovOp3 6 0x3F),
    (0b1010011001000100#16, .reservedMovSource4 6 0x44),
    (0b1100011010001000#16, .reservedIrqBit7 6 0x88),
    (0b1100011001011100#16, .reservedIrqIndexBit3 6 0x5C),
    (0b1100011000110110#16, .reservedIrqIndexBits4And2 6 0x36),
    (0b1110011001100001#16, .reservedSetDestination3 6 0x61),
    (0b1110011010100010#16, .reservedSetDestination5 6 0xA2),
    (0b1110011011111111#16, .reservedSetDestinations6And7 6 0xFF)] = true := by decide

/-- R72: the byte at the lower address holds bits 7 to 0; one byte is no instruction. -/
theorem test_decode_bytes : decode [0x21, 0xE3, 0x00] = .ok (.setX 3 1, [0x00]) ∧ decode [0x21] = .error .truncated := by
  decide

/-! ### Single steps: the vectors of spec/95_test_vectors.md, by its section numbers' families and the words it gives -/

/-- The SM of spec/95 section 0: enabled, all else as after construction. -/
def on : SM := { SM.reset with enabled := true }

/-- What the SMs share in spec/95 section 0. -/
def shared : Shared := State.reset.shared

/-- SM `n` is `m`, with the word `w` at its PC; a pin read returns the latch (spec/95 section 0). -/
def at_ (n : Fin 4) (m : SM) (sh : Shared) (w : InstrWord) : State :=
  { State.reset with
    params := { Params.default with pinRead := .loopback }
    sms := State.reset.sms.set n m
    shared := { sh with imem := memorySet [] m.pc w }
    cur := n }

/-- What one step leaves of the current SM and of what it shares. -/
def after (s : State) : Option (SM × Shared) :=
  match step s with
  | .next t => some (t.sm s.cur, t.shared)
  | .fault _ => none
  | .refused _ => none

/-- One step of SM 0 at the word `w`, seen through `f`. -/
def sees {α : Type} (m : SM) (sh : Shared) (w : InstrWord) (f : SM → Shared → α) : Option α :=
  (after (at_ 0 m sh w)).map fun p => f p.1 p.2

/-- R181, JMP 5. -/
theorem test_jmp : sees { on with pc := 10 } shared 0x0005 (fun m _ => m.pc) = some 5 := by decide
theorem test_jmp_not_x_zero : sees { on with pc := 10 } shared 0x0023 (fun m _ => m.pc) = some 3 := by decide
/-- The source's scenario S4: the old value is tested. -/
theorem test_jmp_x_dec_taken :
    sees { on with pc := 1, x := 2 } shared 0x0045 (fun m _ => (m.pc, m.x)) = some (5, 1) := by decide
/-- The source's scenario S4: X was 0. -/
theorem test_jmp_x_dec_wraps :
    sees { on with pc := 10 } shared 0x0045 (fun m _ => (m.pc, m.x)) = some (11, 0xFFFFFFFF) := by decide
theorem test_jmp_not_y_nonzero :
    sees { on with pc := 10, y := 5 } shared 0x0067 (fun m _ => m.pc) = some 11 := by decide
theorem test_jmp_y_dec :
    sees { on with pc := 10, y := 0x80000000 } shared 0x0082 (fun m _ => (m.pc, m.y)) = some (2, 0x7FFFFFFF) := by decide
theorem test_jmp_x_ne_y :
    sees { on with pc := 10, x := 3, y := 4 } shared 0x00A4 (fun m _ => m.pc) = some 4 := by decide
theorem test_jmp_pin :
    sees { on with pc := 10, execctrl := { ExecCtrl.reset with jmpPin := 7 } } { shared with pinLevel := 0x80 } 0x00C1 (fun m _ => m.pc) = some 1 := by decide
theorem test_jmp_not_osre_at_threshold :
    sees { on with pc := 10, osrShiftCount := 8, shiftctrl := { ShiftCtrl.reset with pullThresh := 8 } } shared 0x00E0 (fun m _ => m.pc) = some 11 := by decide
theorem test_jmp_not_osre_below :
    sees { on with pc := 10, osrShiftCount := 7, shiftctrl := { ShiftCtrl.reset with pullThresh := 8 } } shared 0x00E0 (fun m _ => m.pc) = some 0 := by decide
theorem test_wait_gpio_stalls :
    sees { on with pc := 4 } shared 0x2285 (fun m _ => (m.pc, m.pendingDelay)) = some (4, 0) := by decide
/-- The delay is armed then. -/
theorem test_wait_gpio_completes :
    sees { on with pc := 4 } { shared with pinLevel := 0x20 } 0x2285 (fun m _ => (m.pc, m.pendingDelay)) = some (5, 2) := by decide
/-- Pin (30 + 2) modulo 32. -/
theorem test_wait_pin_wraps :
    sees { on with pc := 4, pinctrl := { PinCtrl.reset with inBase := 30 } } { shared with pinLevel := 0xFFFFFFFE } 0x2022 (fun m _ => m.pc) = some 5 := by decide
theorem test_wait_irq_consumes :
    sees { on with pc := 4 } { shared with irq := 4 } 0x20C2 (fun m sh => (m.pc, sh.irq)) = some (5, 0) := by decide
theorem test_wait_irq_low_stalls :
    sees { on with pc := 4 } { shared with irq := 4 } 0x2042 (fun m sh => (m.pc, sh.irq)) = some (4, 4) := by decide
/-- SM 3, index 1: flag 0. -/
theorem test_wait_irq_rel :
    (after (at_ 3 { on with pc := 4 } { shared with irq := 1 } 0x20D1)).map (fun p => (p.1.pc, p.2.irq)) = some (5, 0) := by decide
theorem test_in_pins_wraps :
    sees { on with pinctrl := { PinCtrl.reset with inBase := 30 } } { shared with pinLevel := 0xC0000003 } 0x4004 (fun m _ => (m.isr, m.isrShiftCount)) = some (0xF, 4) := by decide
/-- R213. -/
theorem test_in_x_32 :
    sees { on with x := 0x12345678, isr := 0xFFFFFFFF } shared 0x4020 (fun m _ => (m.isr, m.isrShiftCount)) = some (0x12345678, 32) := by decide
theorem test_in_x_autopush :
    sees { on with x := 0x1CD, shiftctrl := { ShiftCtrl.reset with autopush := true, pushThresh := 8 } } shared 0x4028 (fun m _ => (m.rxFifo, m.isr, m.isrShiftCount)) = some ([0xCD], 0, 0) := by decide
/-- R214. -/
theorem test_in_y_right :
    sees { on with y := 0xFFFFFFF3, shiftctrl := { ShiftCtrl.reset with inShiftdir := .right } } shared 0x4044 (fun m _ => (m.isr, m.isrShiftCount)) = some (0x30000000, 4) := by decide
/-- R215. -/
theorem test_in_null :
    sees { on with isr := 0xA, isrShiftCount := 4 } shared 0x4064 (fun m _ => (m.isr, m.isrShiftCount)) = some (0xA0, 8) := by decide
/-- R216. -/
theorem test_in_isr_right :
    sees { on with isr := 0xAB, shiftctrl := { ShiftCtrl.reset with inShiftdir := .right } } shared 0x40C8 (fun m _ => m.isr) = some 0xAB000000 := by decide
/-- R217. -/
theorem test_in_osr :
    sees { on with osr := 0xCAFEBABE, osrShiftCount := 5 } shared 0x40F0 (fun m _ => (m.isr, m.osrShiftCount)) = some (0xBABE, 5) := by decide
theorem test_out_pins :
    sees { on with osr := 0x1A5, osrShiftCount := 0, pinctrl := { PinCtrl.reset with outBase := 2, outCount := 8 }, shiftctrl := { ShiftCtrl.reset with outShiftdir := .right } } shared 0x6008 (fun m sh => (sh.pinLevel, m.osr)) = some (0x294, 1) := by decide
theorem test_out_pins_wraps :
    sees { on with osr := 0xFF, osrShiftCount := 0, pinctrl := { PinCtrl.reset with outBase := 30, outCount := 4 }, shiftctrl := { ShiftCtrl.reset with outShiftdir := .right } } shared 0x6008 (fun _ sh => sh.pinLevel) = some 0xC0000003 := by decide
theorem test_out_x_autopull :
    sees { on with osr := 0xAB, osrShiftCount := 24, txFifo := [0x11223344], shiftctrl := { ShiftCtrl.reset with outShiftdir := .right, autopull := true } } shared 0x6028 (fun m _ => (m.x, m.osr, m.osrShiftCount, m.pc)) = some (0xAB, 0x11223344, 0, 1) := by decide
theorem test_out_x_autopull_stalls :
    sees { on with osr := 0xAB, osrShiftCount := 24, shiftctrl := { ShiftCtrl.reset with outShiftdir := .right, autopull := true } } shared 0x6028 (fun m _ => (m.x, m.osr, m.osrShiftCount, m.pc)) = some (0xAB, 0, 32, 0) := by decide
/-- R224. -/
theorem test_out_y_left :
    sees { on with osr := 0xAB000000, osrShiftCount := 0, y := 0xFFFFFFFF } shared 0x6048 (fun m _ => (m.y, m.osr)) = some (0xAB, 0) := by decide
/-- R225. -/
theorem test_out_null :
    sees { on with osr := 0xCAFEBABE, osrShiftCount := 0, shiftctrl := { ShiftCtrl.reset with outShiftdir := .right } } shared 0x6070 (fun m _ => (m.osr, m.osrShiftCount)) = some (0xCAFE, 16) := by decide
/-- R228. -/
theorem test_out_pindirs :
    sees { on with osr := 0xF, osrShiftCount := 0, pinctrl := { PinCtrl.reset with outCount := 4 }, shiftctrl := { ShiftCtrl.reset with outShiftdir := .right } } shared 0x6084 (fun _ sh => (sh.pinDir, sh.pinLevel)) = some (0xF, 0) := by decide
theorem test_out_pc :
    sees { on with pc := 2, osr := 0xF3, osrShiftCount := 0, shiftctrl := { ShiftCtrl.reset with outShiftdir := .right } } shared 0x60A8 (fun m _ => (m.pc, m.osr)) = some (19, 0) := by decide
theorem test_out_isr_keeps_count :
    sees { on with osr := 0x12AB, osrShiftCount := 0, isrShiftCount := 3, shiftctrl := { ShiftCtrl.reset with outShiftdir := .right } } shared 0x60C8 (fun m _ => (m.isr, m.isrShiftCount)) = some (0xAB, 3) := by decide
/-- R229. -/
theorem test_out_exec :
    sees { on with pc := 2, osr := 0xA042, osrShiftCount := 0, shiftctrl := { ShiftCtrl.reset with outShiftdir := .right } } shared 0x60E0 (fun m _ => (m.pendingInstruction, m.pc, m.osrShiftCount)) = some (some 0xA042, 2, 32) := by decide
/-- R240. -/
theorem test_push :
    sees { on with isr := 0xAA, isrShiftCount := 8 } shared 0x8000 (fun m _ => (m.rxFifo, m.isr, m.pc)) = some ([0xAA], 0, 1) := by decide
theorem test_push_block_full :
    sees { on with isr := 0xAA, rxFifo := [1, 2, 3, 4] } shared 0x8020 (fun m _ => (m.rxFifo, m.isr, m.pc)) = some ([1, 2, 3, 4], 0xAA, 0) := by decide
theorem test_pull :
    sees { on with txFifo := [0xDEADBEEF] } shared 0x80A0 (fun m _ => (m.osr, m.osrShiftCount, m.pc)) = some (0xDEADBEEF, 0, 1) := by decide
/-- R161: X is taken. -/
theorem test_pull_noblock_empty :
    sees { on with osr := 1, x := 0x77 } shared 0x8080 (fun m _ => (m.osr, m.osrShiftCount, m.pc)) = some (0x77, 0, 1) := by decide
/-- R166. -/
theorem test_mov_x_rev_y :
    sees { on with y := 0x12345678 } shared 0xA032 (fun m _ => m.x) = some 0x1E6A2C48 := by decide
theorem test_mov_x_inv_y :
    sees { on with y := 0x0F0F0F0F } shared 0xA02A (fun m _ => m.x) = some 0xF0F0F0F0 := by decide
/-- R255. -/
theorem test_mov_y_inv_null : sees on shared 0xA04B (fun m _ => m.y) = some 0xFFFFFFFF := by decide
theorem test_mov_x_pins :
    sees { on with pinctrl := { PinCtrl.reset with inBase := 4 } } { shared with pinLevel := 0x80000ABF } 0xA020 (fun m _ => m.x) = some 0xF80000AB := by decide
/-- R167. -/
theorem test_mov_x_status_rx :
    sees { on with execctrl := { ExecCtrl.reset with statusN := 2, statusSel := true }, rxFifo := [1] } shared 0xA025 (fun m _ => m.x) = some 0xFFFFFFFF := by decide
theorem test_mov_x_status_tx :
    sees { on with execctrl := { ExecCtrl.reset with statusN := 2 }, txFifo := [1, 2], x := 3 } shared 0xA025 (fun m _ => m.x) = some 0 := by decide
theorem test_mov_pins_x :
    sees { on with x := 0xFFFFFFFF, pinctrl := { PinCtrl.reset with outBase := 8, outCount := 4 } } shared 0xA001 (fun _ sh => sh.pinLevel) = some 0xF00 := by decide
theorem test_mov_pc_x : sees { on with pc := 3, x := 0x25 } shared 0xA0A1 (fun m _ => m.pc) = some 5 := by decide
/-- R264. -/
theorem test_mov_exec_y :
    sees { on with pc := 3, y := 0x1234E03F } shared 0xA082 (fun m _ => (m.pendingInstruction, m.pc)) = some (some 0xE03F, 3) := by decide
theorem test_mov_isr_y :
    sees { on with y := 0x55, isrShiftCount := 7 } shared 0xA0C2 (fun m _ => (m.isr, m.isrShiftCount)) = some (0x55, 7) := by decide
theorem test_mov_osr_inv_x :
    sees on shared 0xA0E9 (fun m _ => (m.osr, m.osrShiftCount)) = some (0xFFFFFFFF, 32) := by decide
/-- R271. -/
theorem test_irq_set : sees { on with pc := 6 } shared 0xC003 (fun m sh => (sh.irq, m.pc)) = some (8, 7) := by decide
/-- SM 2, index 3: flag 1. -/
theorem test_irq_set_rel :
    (after (at_ 2 { on with pc := 6 } shared 0xC013)).map (fun p => (p.2.irq, p.1.pc)) = some (2, 7) := by decide
/-- R272. -/
theorem test_irq_clear_ignores_wait :
    sees { on with pc := 6 } { shared with irq := 0xFF } 0xC065 (fun m sh => (sh.irq, m.pc)) = some (0xDF, 7) := by decide
/-- SM 3, index 1: flag 0. -/
theorem test_irq_clear_rel :
    (after (at_ 3 { on with pc := 6 } { shared with irq := 0xFF } 0xC051)).map (fun p => (p.2.irq, p.1.pc)) = some (0xFE, 7) := by decide
/-- R273. -/
theorem test_irq_wait_first :
    sees on shared 0xC021 (fun m sh => (sh.irq, m.irqWait, m.pc)) = some (2, some 1, 0) := by decide
/-- R273. -/
theorem test_irq_wait_done :
    sees { on with irqWait := some 1 } shared 0xC021 (fun m sh => (sh.irq, m.irqWait, m.pc)) = some (0, none, 1) := by decide
/-- SM 1, index 3: flag 0. -/
theorem test_irq_wait_rel :
    (after (at_ 1 on shared 0xC033)).map (fun p => (p.2.irq, p.1.irqWait)) = some (1, some 0) := by decide
theorem test_set_pins :
    sees { on with pinctrl := { PinCtrl.reset with setBase := 30, setCount := 5 } } shared 0xE01F (fun _ sh => sh.pinLevel) = some 0xC0000007 := by decide
/-- R282. -/
theorem test_set_x : sees { on with x := 0xFFFFFFFF } shared 0xE03F (fun m _ => m.x) = some 31 := by decide
/-- R283. -/
theorem test_set_y : sees { on with y := 0xFFFFFFFF } shared 0xE040 (fun m _ => m.y) = some 0 := by decide
theorem test_set_pindirs :
    sees { on with pinctrl := { PinCtrl.reset with setBase := 7, setCount := 1 } } shared 0xE081 (fun _ sh => sh.pinDir) = some 0x80 := by decide
/-- R343: the record is set, the PC stays. -/
theorem test_reserved :
    sees { on with pc := 9 } shared 0x8001 (fun m _ => (m.fault, m.pc)) = some (some (.decodeError 9 0x8001), 9) := by decide
/-- R296. -/
theorem test_wrap_and_delay :
    sees { on with pc := 3, execctrl := { ExecCtrl.reset with wrapTop := 3, wrapBottom := 1 } } shared 0xA342 (fun m _ => (m.pc, m.pendingDelay)) = some (1, 3) := by decide
/-- R295: SIDESET_COUNT 2. -/
theorem test_side_set :
    sees { on with pinctrl := { PinCtrl.reset with sidesetCount := 2, sidesetBase := 10 } } shared 0xB942 (fun m sh => (sh.pinLevel, m.pendingDelay)) = some (0xC00, 1) := by decide
/-- R295: SIDE_EN. -/
theorem test_side_set_enabled :
    sees { on with execctrl := { ExecCtrl.reset with sideEn := true }, pinctrl := { PinCtrl.reset with sidesetCount := 2, sidesetBase := 10 } } shared 0xB842 (fun _ sh => sh.pinLevel) = some 0x400 := by decide
theorem test_side_set_pindirs :
    sees { on with execctrl := { ExecCtrl.reset with sidePindir := .pindirs }, pinctrl := { PinCtrl.reset with sidesetCount := 3, sidesetBase := 30 } } shared 0xB442 (fun _ sh => (sh.pinDir, sh.pinLevel)) = some (0x40000001, 0) := by decide
/-- The side-set is driven at every run. -/
theorem test_side_set_on_stall :
    sees { on with pinctrl := { PinCtrl.reset with sidesetCount := 1 } } shared 0x90A0 (fun m sh => (sh.pinLevel, m.pc)) = some (1, 0) := by decide
/-- It is driven after SET PINS. -/
theorem test_side_set_wins :
    sees { on with pinctrl := { PinCtrl.reset with sidesetCount := 1, sidesetBase := 4, setBase := 4, setCount := 1 } } shared 0xF000 (fun _ sh => sh.pinLevel) = some 0x10 := by decide
/-- R293, R298. -/
theorem test_injected_word_first :
    sees { on with pendingInstruction := some 0xE03F } shared 0xE040 (fun m _ => (m.x, m.pc, m.pendingInstruction)) = some (31, 1, none) := by decide

/-! ### Witnesses: for every obligation with hypotheses, concrete operands and a state that meet them together, with
each clause at a boundary of its range -/

/-- The step, or the instruction, answers a next state. -/
def answers (o : Host.Outcome State Fault Refusal) : Bool :=
  match o with
  | .next _ => true
  | .fault _ => false
  | .refused _ => false

theorem exists_next {o : Host.Outcome State Fault Refusal} (h : answers o = true) : ∃ t, o = .next t := by
  cases o with
  | next t => exact ⟨t, rfl⟩
  | fault r => cases h
  | refused r => cases h

/-- SM 0 is `m`; nothing stands in memory. -/
def sm0 (m : SM) : State := { State.reset with sms := State.reset.sms.set 0 m }

/-- The same with the next events listed. -/
def sm0Then (m : SM) (events : List Event) : State := { sm0 m with events := events }

theorem witness_DecodeAfterEncode : (Instr.inX 0 1).WellFormed ∧ (Instr.inX 31 32).WellFormed ∧
    (Instr.reservedIrqBit7 31 0xFF).WellFormed := by decide

theorem witness_IrqNumberOfLegalIndex :
    ((0b10011#5).getLsbD 3 = false ∧ ¬ ((0b10011#5).getLsbD 4 = true ∧ (0b10011#5).getLsbD 2 = true)) ∧
    ((0b00111#5).getLsbD 3 = false ∧ ¬ ((0b00111#5).getLsbD 4 = true ∧ (0b00111#5).getLsbD 2 = true)) := by decide

theorem witness_ShiftsAsArithmetic : (1 ≤ 1 ∧ 1 ≤ 32) ∧ (1 ≤ 32 ∧ 32 ≤ 32) ∧
    (sm0 on).view.sm.shiftctrl.inShiftdir = .left ∧ (sm0 on).view.sm.shiftctrl.outShiftdir = .left ∧
    (sm0 { on with shiftctrl := .unpack 0x000C0000 }).view.sm.shiftctrl.inShiftdir = .right ∧
    (sm0 { on with shiftctrl := .unpack 0x000C0000 }).view.sm.shiftctrl.outShiftdir = .right := by decide

theorem witness_PinWindows : 0 ≤ 32 ∧ 32 ≤ 32 := by decide

/-- Pin 31 is HIGH, pin 0 and flag 0 LOW, flag 7 HIGH; IN_BASE is 0. -/
def levels : State := { sm0 on with shared := { State.reset.shared with pinIn := 0x80000000, irq := 0x80 } }

theorem witness_WaitCompletesWhenSampleAgrees :
    levels.pinRead (31#5).toNat = true ∧ levels.pinRead (0#5).toNat = false ∧
    levels.pinRead (((levels.sm levels.cur).pinctrl.inBase.toNat + (31#5).toNat) % 32) = true ∧
    levels.pinRead (((levels.sm levels.cur).pinctrl.inBase.toNat + (0#5).toNat) % 32) = false ∧
    levels.shared.irq.getLsbD (flagNumber levels.cur (.abs 7)) = true ∧
    levels.shared.irq.getLsbD (flagNumber levels.cur (.abs 0)) = false ∧
    { levels with cur := 1, shared := { levels.shared with irq := 1 } }.shared.irq.getLsbD (flagNumber 1 (.rel 3)) = true ∧
    levels.shared.irq.getLsbD (flagNumber levels.cur (.rel 0)) = false := by decide

theorem witness_WaitStallsWhenSampleDiffers :
    levels.pinRead (31#5).toNat ≠ false ∧ levels.pinRead (0#5).toNat ≠ true ∧
    levels.pinRead (((levels.sm levels.cur).pinctrl.inBase.toNat + (31#5).toNat) % 32) ≠ false ∧
    levels.pinRead (((levels.sm levels.cur).pinctrl.inBase.toNat + (0#5).toNat) % 32) ≠ true ∧
    levels.shared.irq.getLsbD (flagNumber levels.cur (.abs 7)) ≠ false ∧
    levels.shared.irq.getLsbD (flagNumber levels.cur (.abs 0)) ≠ true ∧
    levels.shared.irq.getLsbD (flagNumber levels.cur (.rel 0)) ≠ true := by decide

/-- AUTOPUSH and AUTOPULL are on, both thresholds are 1. -/
def auto : ShiftCtrl := { ShiftCtrl.reset with autopush := true, autopull := true, pushThresh := 1, pullThresh := 1 }

/-- Neither autopush (count 1), and autopush with room for one word (count 32). -/
theorem witness_InCompletes :
    ((Instr.inX 0 1).form = .input .x 1 ∧ 1 ≤ 1 ∧ 1 ≤ 32 ∧ SM.pushWanted { on with isrShiftCount := 1 } true = false) ∧
    ((Instr.inOsr 0 32).form = .input .osr 32 ∧ 1 ≤ 32 ∧ 32 ≤ 32 ∧
      SM.pushWanted { on with shiftctrl := auto, isrShiftCount := 32, rxFifo := [1, 2, 3] } true = true ∧
      [1, 2, 3].length ≠ capRx (sm0 on).params auto) := by decide

theorem witness_InStallsOnFullRxFifo :
    (Instr.inPins 0 1).form = .input .pins 1 ∧ 1 ≤ 1 ∧ 1 ≤ 32 ∧
    SM.pushWanted { on with shiftctrl := auto, isrShiftCount := 1, rxFifo := [1, 2, 3, 4] } true = true ∧
    [1, 2, 3, 4].length = capRx (sm0 on).params auto := by decide

/-- No pull due (count 1), and a pull that finds one word (count 32). -/
theorem witness_OutCompletes :
    ((Instr.outX 0 1).form = .output .x 1 ∧ 1 ≤ 1 ∧ 1 ≤ 32 ∧ OutDst.x ≠ .pc ∧ OutDst.x ≠ .exec ∧
      SM.pullWanted { on with osrShiftCount := 1 } true = false) ∧
    ((Instr.outIsr 0 32).form = .output .isr 32 ∧ 1 ≤ 32 ∧ 32 ≤ 32 ∧ OutDst.isr ≠ .pc ∧ OutDst.isr ≠ .exec ∧
      SM.pullWanted { on with shiftctrl := auto, osrShiftCount := 32, txFifo := [7] } true = true ∧ [7] ≠ []) := by decide

theorem witness_OutStallsOnEmptyTxFifo :
    (Instr.outPins 0 1).form = .output .pins 1 ∧ 1 ≤ 1 ∧ 1 ≤ 32 ∧ OutDst.pins ≠ .pc ∧ OutDst.pins ≠ .exec ∧
    SM.pullWanted { on with shiftctrl := auto, osrShiftCount := 32 } true = true ∧ on.txFifo = [] := by decide

theorem witness_OutPcJumps : (1 ≤ 1 ∧ 1 ≤ 32) ∧ (1 ≤ 32 ∧ 32 ≤ 32) := by decide

theorem witness_OutExecInjects : 1 ≤ 32 ∧ 32 ≤ 32 ∧ ((sm0 on).sm (sm0 on).cur).pendingInstruction = none := by decide

/-- Not asked for; asked for, blocking, with room. -/
theorem witness_PushCompletes : on.pushWanted true = false ∧
    on.pushWanted false = true ∧ on.rxFifo.length ≠ capRx (sm0 on).params on.shiftctrl := by decide

theorem witness_PullCompletes : on.pullWanted true = false ∧
    SM.pullWanted { on with txFifo := [1] } false = true ∧ SM.txFifo { on with txFifo := [1] } ≠ [] := by decide

theorem witness_BlockingTransfersStall :
    (SM.pushWanted { on with rxFifo := [1, 2, 3, 4] } false = true ∧
      [1, 2, 3, 4].length = capRx (sm0 on).params on.shiftctrl) ∧
    (on.pullWanted false = true ∧ on.txFifo = []) ∧
    (SM.pullWanted { on with shiftctrl := auto } true = true ∧ SM.txFifo { on with shiftctrl := auto } = []) := by decide

theorem witness_MovPinsCompletes : (Instr.movPinsRevOsr 31).form = .mov .pins .reverse .osr := by decide
theorem witness_MovScratchCompletes : (Instr.movXInvPins 0).form = .mov .x .invert .pins ∧
    (Instr.movYStatus 0).form = .mov .y .none .status := by decide
theorem witness_MovShiftRegisterCompletes : (Instr.movIsrRevIsr 0).form = .mov .isr .reverse .isr ∧
    (Instr.movOsrNull 0).form = .mov .osr .none .null := by decide
theorem witness_MovPcJumps : (Instr.movPcX 0).form = .mov .pc .none .x := by decide
theorem witness_MovExecInjects : (Instr.movExecInvY 0).form = .mov .exec .invert .y ∧
    ((sm0 on).sm (sm0 on).cur).pendingInstruction = none := by decide

/-- The latch of SM 0 holds flag 7, which is LOW, respectively HIGH. -/
theorem witness_IrqWaitCompletesWhenFlagLow : (Instr.irqWait 0 7).form = .irqWait (.abs 7) ∧
    ((sm0 { on with irqWait := some 7 }).sm 0).irqWait = some 7 ∧ (7#3).toNat = flagNumber 0 (.abs 7) ∧
    (sm0 { on with irqWait := some 7 }).shared.irq.getLsbD (7#3).toNat = false := by decide

theorem witness_IrqWaitSetsOnceAndStalls :
    (Instr.irqWaitRel 0 3).form = .irqWait (.rel 3) ∧
    (({ sm0 { on with irqWait := some 3 } with shared := { State.reset.shared with irq := 8 } } : State).sm 0).irqWait = some 3 ∧
    (3#3).toNat = flagNumber 0 (.rel 3) ∧ (8#8).getLsbD (3#3).toNat = true ∧
    ((sm0 on).sm 0).irqWait = none ∧
    ((sm0 { on with irqWait := some 7 }).sm 0).irqWait = some 7 ∧ (7#3).toNat ≠ flagNumber 0 (.rel 3) := by decide

theorem witness_ReservedRecordsDecodeError :
    (Instr.reservedSetDestinations6And7 31 0xFF).form = .reserved .setDestinations6And7 0xFF := by decide

/-- Counts 0 and 33; an EXEC on an occupied slot. -/
theorem witness_ExecStopsOnlyOnInternalViolation :
    (Instr.inX 0 0).form = .input .x 0 ∧ (Instr.outX 0 33).form = .output .x 33 ∧ 32 < 33 ∧
    fillsSlot (Instr.movExecX 0).form = true ∧ fillsSlot (Instr.outExec 0 32).form = true ∧
    ((sm0 { on with pendingInstruction := some 0 }).sm 0).pendingInstruction.isSome = true := by decide

/-- `SET X, 31` at the PC of SM 0, with no event, with a word in the slot, and with an edge of SM 0 listed. -/
theorem witness_StepRunsDecodedInstruction :
    (((at_ 0 on shared 0xE03F).sm 0).Fetches ∧ ((sm0 { on with pendingInstruction := some 0xE03F }).sm 0).Fetches) ∧
    ((at_ 0 on shared 0xE03F).events = [] ∧ ((at_ 0 on shared 0xE03F).sm 0).pendingInstruction = none ∧
      (at_ 0 on shared 0xE03F).CodeAt on (.setX 0 31)) ∧
    ((sm0 { on with pendingInstruction := some 0xE03F }).sm 0).pendingInstruction = some 0xE03F ∧
    ({ at_ 0 on shared 0xE03F with cur := 1, events := [.edge 0] } : State).events = .edge 0 :: [] ∧
    answers (exec (.setX 0 31) { at_ 0 on shared 0xE03F with events := [], cur := 0 }) = true ∧
    (sm0Then { on with pendingInstruction := some 0xE03F } [.edge 0]).events = .edge 0 :: [] ∧
    (sm0Then { on with pendingInstruction := some 0xE03F } [.edge 0]).sm 0 = { on with pendingInstruction := some 0xE03F } ∧
    answers (exec (decodeWord 0xE03F) ({ sm0Then { on with pendingInstruction := some 0xE03F } [.edge 0] with
      events := [] }.setSm 0 on)) = true := by
  refine ⟨⟨⟨rfl, rfl, rfl, rfl⟩, ⟨rfl, rfl, rfl, rfl⟩⟩, ?_⟩
  unfold State.CodeAt
  decide

theorem witness_GatedEdgeChangesNothing :
    ((sm0 SM.reset).events = [] ∧ ((sm0 SM.reset).sm 0).enabled = false) ∧
    ((sm0 { on with clockEnabled := false }).sm 0).clockEnabled = false ∧
    ((sm0 { on with fault := some (.decodeError 9 0x8001) }).sm 0).fault ≠ none ∧
    (sm0Then SM.reset [.edge 0]).events = .edge 0 :: [] := by decide

/-- A delay of 31 and one of 0. -/
theorem witness_DelayTakesItsTicks :
    ((sm0 { on with pendingDelay := 31 }).events = [] ∧ ((sm0 { on with pendingDelay := 31 }).sm 0).enabled = true ∧
      ((sm0 { on with pendingDelay := 31 }).sm 0).clockEnabled = true ∧
      ((sm0 { on with pendingDelay := 31 }).sm 0).fault = none ∧
      ((sm0 { on with pendingDelay := 31 }).sm 0).pendingDelay = 31 ∧ 31 ≤ 31) ∧
    ((sm0 on).sm 0).pendingDelay = 0 := by decide

/-- A word that stalls, and one that fills the slot again. -/
theorem witness_InjectedWordIsConsumed :
    (((sm0 { on with pendingInstruction := some 0x80A0 }).sm 0).Fetches ∧
      ((sm0 { on with pendingInstruction := some 0xA082 }).sm 0).Fetches) ∧
    (sm0 { on with pendingInstruction := some 0x80A0 }).events = [] ∧
    ((sm0 { on with pendingInstruction := some 0x80A0 }).sm 0).pendingInstruction = some 0x80A0 ∧
    answers (step (sm0 { on with pendingInstruction := some 0x80A0 })) = true ∧
    fillsSlot (decodeWord 0x80A0).form = false ∧
    answers (step (sm0 { on with pendingInstruction := some 0xA082 })) = true ∧
    fillsSlot (decodeWord 0xA082).form = true ∧
    ({ sm0Then { on with pendingInstruction := some 0x80A0 } [.edge 0] with cur := 3 } : State).events = .edge 0 :: [] ∧
    answers (step { sm0Then { on with pendingInstruction := some 0x80A0 } [.edge 0] with cur := 3 }) = true :=
  ⟨⟨⟨rfl, rfl, rfl, rfl⟩, ⟨rfl, rfl, rfl, rfl⟩⟩, by decide⟩

/-- JMP, OUT PC, MOV PC and an instruction that completes. -/
theorem witness_PcMovesByTheRules : answers (exec (.jmp 0 5) (sm0 on)) = true ∧ answers (exec (.outPc 0 5) (sm0 on)) = true ∧
    answers (exec (.movPcX 0) (sm0 on)) = true ∧ answers (exec (.setX 0 1) (sm0 on)) = true := by decide

/-- X and Y of SM 0 after an instruction, with X = 1, Y = 1 and OSR = 0 before. -/
def xyAfter (i : Instr) : Option (Word × Word) :=
  match exec i (sm0 { on with x := 1, y := 1 }) with
  | .next t => some ((t.sm 0).x, (t.sm 0).y)
  | .fault _ => none
  | .refused _ => none

theorem witness_ScratchRegisterWriters :
    xyAfter (.setX 0 3) = some (3, 1) ∧ xyAfter (.outX 0 8) = some (0, 1) ∧ xyAfter (.movXNull 0) = some (0, 1) ∧
    xyAfter (.jmpXDec 0 5) = some (0, 1) ∧ xyAfter (.setY 0 3) = some (1, 3) ∧ xyAfter (.outY 0 8) = some (1, 0) ∧
    xyAfter (.movYNull 0) = some (1, 0) ∧ xyAfter (.jmpYDec 0 5) = some (1, 0) := by decide

theorem witness_FifosChangeOnlyByPushAndPull : answers (exec (.push 0 false true) (sm0 on)) = true ∧
    answers (exec (.inX 0 32) (sm0 { on with shiftctrl := auto })) = true ∧
    answers (exec (.pull 0 false true) (sm0 { on with txFifo := [7] })) = true ∧
    answers (exec (.outX 0 32) (sm0 { on with shiftctrl := auto, txFifo := [7] })) = true := by decide

/-- The flags after an instruction of SM 0, from `irq`. -/
def irqAfter (i : Instr) (irq : BitVec 8) : Option (BitVec 8) :=
  match exec i { sm0 on with shared := { State.reset.shared with irq := irq } } with
  | .next t => some t.shared.irq
  | .fault _ => none
  | .refused _ => none

/-- Flags 0 and 7 change, by each of the four instructions. -/
theorem witness_IrqFlagWriters : irqAfter (.irqSet 0 7) 0 = some 0x80 ∧ irqAfter (.irqWaitRel 0 0) 0 = some 1 ∧
    irqAfter (.irqClear 0 true 7) 0xFF = some 0x7F ∧ irqAfter (.waitIrq 0 true 0) 1 = some 0 := by decide

/-- SIDESET_COUNT 5, all windows at pin 0: pins 5 and 31 lie outside, with OUT_COUNT and SET_COUNT 5. -/
def windows : SM := { on with pinctrl := { PinCtrl.reset with sidesetCount := 5, setCount := 5, outCount := 5 } }

theorem witness_LatchesChangeOnlyInWindows : answers (exec (.setPins 31 31) (sm0 windows)) = true ∧
    windows.pinctrl.sidesetCount.toNat ≤ 5 ∧
    (∀ p, p = 5 ∨ p = 31 → p < 32 ∧
      (∀ k < 32, k < windows.pinctrl.outCount.toNat → (windows.pinctrl.outBase.toNat + k) % 32 ≠ p) ∧
      (∀ k < 32, k < windows.pinctrl.setCount.toNat → (windows.pinctrl.setBase.toNat + k) % 32 ≠ p) ∧
      (∀ k < 32, k < sidePins windows → (windows.pinctrl.sidesetBase.toNat + k) % 32 ≠ p)) := by
  refine ⟨by decide, by decide, ?_⟩
  rintro p (rfl | rfl) <;> decide

theorem witness_InstructionsWriteNoConfiguration : answers (exec (.outPins 31 32) (sm0 windows)) = true := by decide

/-- SM 0 enabled with a full TX FIFO, a word loaded, an edge listed: the invariant holds and the step answers. -/
def busy : State := { at_ 0 { on with txFifo := [1, 2, 3, 4] } shared 0x80A0 with events := [.edge 0] }

theorem witness_StepKeepsInvariant : busy.Inv ∧ ∃ t, step busy = .next t := by
  refine ⟨⟨by decide, ?_, by decide⟩, exists_next (by decide)⟩
  have h : ∀ n : Fin 4, busy.sm n = if n = 0 then { on with txFifo := [1, 2, 3, 4] } else SM.reset := by decide
  intro n
  rw [h n]
  split <;>
    exact ⟨by decide, by decide, by decide, by decide, by decide, by decide, by decide, by decide, by decide, trivial⟩

/-- A block after construction whose open values are not those of reset. -/
def constructed : State :=
  { State.reset with
    sms := State.reset.sms.set 2 { SM.reset with x := 0xFFFFFFFF, shiftctrl := .unpack 0x40000000, pinctrl := .unpack 0xB5FFFFFF }
    shared := { State.reset.shared with imem := [(0, 1), (63, 255)], pinLevel := 0xFFFFFFFF } }

theorem witness_ConstructedIsLegal : constructed.Constructed := by
  refine ⟨by decide, ?_, by decide, by decide⟩
  unfold SM.Constructed
  decide

/-- SM 0 has faulted; the step is a tick of it, a tick of SM 1, a host operation on it. -/
def faulted : SM := { on with fault := some (.decodeError 9 0x8001) }

theorem witness_FaultIsSticky :
    ((sm0 faulted).sm 0).fault ≠ none ∧ answers (step (sm0 faulted)) = true ∧ (sm0 faulted).events = [] ∧
    answers (step (sm0Then faulted [.edge 1])) = true ∧ answers (step (sm0Then faulted [.host 0 .restart])) = true := by
  decide

/-- Two states that differ in SM 3 only, and two ticks of SM 0 in the one. -/
theorem witness_TicksIgnoreOtherSms :
    (at_ 0 on shared 0xE03F).events = [] ∧ ((at_ 0 on shared 0xE03F).setSm 3 on).events = [] ∧
    ((at_ 0 on shared 0xE03F).setSm 3 on).cur = (at_ 0 on shared 0xE03F).cur ∧
    SameForSm 0 (at_ 0 on shared 0xE03F) ((at_ 0 on shared 0xE03F).setSm 3 on) ∧
    (at_ 0 on shared 0xE03F).sm 3 ≠ ((at_ 0 on shared 0xE03F).setSm 3 on).sm 3 ∧
    answers (Host.Core.run core 2 (at_ 0 on shared 0xE03F)) = true :=
  ⟨by decide, by decide, by decide, ⟨by decide, by decide, by decide⟩, by decide, by decide⟩

/-- SM 0 at PUSH BLOCK with a full RX FIFO, at PULL BLOCK with an empty TX FIFO, at WAIT 1 IRQ 7 with the flag LOW. -/
theorem witness_StalledTickIsIdempotent :
    (((at_ 0 { on with rxFifo := [1, 2, 3, 4] } shared 0x8020).sm 0).Fetches ∧
      ((at_ 0 on shared 0x80A0).sm 0).Fetches ∧ ((at_ 0 on shared 0x20C7).sm 0).Fetches) ∧
    (at_ 0 on shared 0x80A0).events = [] ∧ on.pendingInstruction = none ∧
    ((at_ 0 { on with rxFifo := [1, 2, 3, 4] } shared 0x8020).CodeAt { on with rxFifo := [1, 2, 3, 4] } (.push 0 false true) ∧
      SM.pushWanted { on with rxFifo := [1, 2, 3, 4] } false = true ∧
      [1, 2, 3, 4].length = capRx (at_ 0 on shared 0).params on.shiftctrl ∧
      answers (step (at_ 0 { on with rxFifo := [1, 2, 3, 4] } shared 0x8020)) = true) ∧
    ((at_ 0 on shared 0x80A0).CodeAt on (.pull 0 false true) ∧ on.pullWanted false = true ∧ on.txFifo = [] ∧
      answers (step (at_ 0 on shared 0x80A0)) = true) ∧
    ((at_ 0 on shared 0x20C7).CodeAt on (.waitIrq 0 true 7) ∧
      (at_ 0 on shared 0x20C7).shared.irq.getLsbD (flagNumber 0 (.abs 7)) ≠ true ∧
      answers (step (at_ 0 on shared 0x20C7)) = true) := by
  refine ⟨⟨⟨rfl, rfl, rfl, rfl⟩, ⟨rfl, rfl, rfl, rfl⟩, ⟨rfl, rfl, rfl, rfl⟩⟩, ?_⟩
  unfold State.CodeAt
  decide

/-- IRQ WAIT 7 at the PC of SM 0, with the three events of the handshake. -/
theorem witness_IrqWaitHandshakeWithHost : ((at_ 0 on shared 0xC027).sm 0).Fetches ∧
    ({ at_ 0 on shared 0xC027 with events := [.edge 0, .irqClear 7, .edge 0] } : State).events =
      .edge 0 :: .irqClear 7 :: .edge 0 :: [] ∧
    on.pendingInstruction = none ∧ on.irqWait = none ∧ (at_ 0 on shared 0xC027).CodeAt on (.irqWait 0 7) ∧
    (Instr.irqWait 0 7).form = .irqWait (.abs 7) ∧ (7#3).toNat = flagNumber 0 (.abs 7) := by
  refine ⟨⟨rfl, rfl, rfl, rfl⟩, ?_⟩
  unfold State.CodeAt
  decide

/-- SMs 0 and 3 at `WAIT 1 IRQ 3`, flag 3 HIGH. -/
def twoWaiting : State :=
  { (at_ 0 on { shared with irq := 8 } 0x20C3).setSm 3 on with events := [.edge 0, .edge 3] }

theorem witness_WaitConsumesTheFlagOnce : ((twoWaiting.sm 0).Fetches ∧ (twoWaiting.sm 3).Fetches) ∧ (0 : Fin 4) ≠ 3 ∧ twoWaiting.events = .edge 0 :: .edge 3 :: [] ∧
    twoWaiting.sm 0 = on ∧ twoWaiting.sm 3 = on ∧ on.pendingInstruction = none ∧
    twoWaiting.CodeAt on (.waitIrq 0 true 3) ∧ (Instr.waitIrq 0 true 3).form = .wait true (.irq (.abs 3)) ∧
    flagNumber 0 (.abs 3) = flagNumber 3 (.abs 3) ∧ twoWaiting.shared.irq.getLsbD (flagNumber 0 (.abs 3)) = true := by
  refine ⟨⟨⟨rfl, rfl, rfl, rfl⟩, ⟨rfl, rfl, rfl, rfl⟩⟩, ?_⟩
  unfold State.CodeAt
  decide

theorem witness_BlockTickInOrder : (sm0Then on [.blockTick 0b1111]).events = .blockTick 0b1111 :: [] ∧
    (sm0Then on [.blockTick 0b1111]).params.Legal := by decide

/-- The first and the last address. -/
theorem witness_LoadThenFetch : ({ busy with events := [.memorySet 31 0xABCD] } : State).Inv ∧
    ({ busy with events := [.memorySet 31 0xABCD] } : State).events = .memorySet 31 0xABCD :: [] ∧ (0 : Index) ≠ 31 :=
  ⟨⟨witness_StepKeepsInvariant.1.1, witness_StepKeepsInvariant.1.2.1, witness_StepKeepsInvariant.1.2.2⟩, rfl, by decide⟩

/-- The largest accepted value of each range and the one above it; each join flag set, set again, and changed. -/
theorem witness_GranularSettersCheckTheirRange :
    (on.hostOp .default (.setNum .statusN 15)).2 = .done ∧ (on.hostOp .default (.setNum .statusN 16)).2 ≠ .done ∧
    (on.hostOp .default (.setNum .sidesetCount 5)).2 = .done ∧ (on.hostOp .default (.setNum .sidesetCount 6)).2 ≠ .done ∧
    (on.hostOp .default (.setNum .setCount 5)).2 = .done ∧ (on.hostOp .default (.setNum .setCount 6)).2 ≠ .done ∧
    (on.hostOp .default (.setNum .outCount 31)).2 = .done ∧ (on.hostOp .default (.setNum .outCount 32)).2 ≠ .done ∧
    (on.hostOp .default (.setNum .pullThresh 31)).2 = .done ∧ (on.hostOp .default (.setNum .pullThresh 32)).2 ≠ .done ∧
    NumField.setCount ≠ .sidesetCount ∧
    (ShiftCtrl.unpack 0x40000000).joinTx = true ∧ (ShiftCtrl.unpack 0x80000000).joinRx = true ∧
    ¬ (true = true ∧ on.shiftctrl.joinTx = true) ∧ true ≠ on.shiftctrl.joinRx ∧ false = on.shiftctrl.joinRx := by decide

/-- Each setter succeeds on the largest word it accepts, and changes the register. -/
theorem witness_PackedRegistersRoundTrip :
    (on.hostOp Params.default (.setEXECCTRL 0xFFFFFFFF)).2 = .done ∧
    (on.hostOp Params.default (.setSHIFTCTRL 0xBFFFFFFF)).2 = .done ∧
    (on.hostOp Params.default (.setPINCTRL 0xB5FFFFFF)).2 = .done := by decide

/-- The largest legal counts and, in each, one more; both join bits, one of them, none. -/
theorem witness_RegisterWritesAreValidated :
    ((0xB5FFFFFF : Word).toNat / 2 ^ 29 ≤ 5 ∧ (0xB5FFFFFF : Word).toNat / 2 ^ 26 % 8 ≤ 5 ∧
      (0xB5FFFFFF : Word).toNat / 2 ^ 20 % 64 ≤ 31) ∧
    ¬ ((0xC0000000 : Word).toNat / 2 ^ 29 ≤ 5) ∧ ¬ ((0x18000000 : Word).toNat / 2 ^ 26 % 8 ≤ 5) ∧
    ¬ ((0x02000000 : Word).toNat / 2 ^ 20 % 64 ≤ 31) ∧
    3 ≤ (0xC0000000 : Word).toNat / 2 ^ 30 ∧ (0xBFFFFFFF : Word).toNat / 2 ^ 30 < 3 ∧
    (ShiftCtrl.unpack 0).joinRx = on.shiftctrl.joinRx ∧ (ShiftCtrl.unpack 0).joinTx = on.shiftctrl.joinTx ∧
    (ShiftCtrl.unpack 0xBFFFFFFF).joinRx ≠ on.shiftctrl.joinRx := by decide

theorem witness_HostOperationsOnOneSm : 31 ≤ 31 ∧ 31 < 32 ∧ on.pendingInstruction = none ∧
    SM.pendingInstruction { on with pendingInstruction := some 0 } ≠ none ∧ on.rxFifo = [] ∧
    SM.rxFifo { on with rxFifo := [1] } = 1 :: [] ∧ [1, 2, 3].length < capTx Params.default on.shiftctrl ∧
    capTx Params.default on.shiftctrl ≤ [1, 2, 3, 4].length := by decide

/-- Exactly as many words as there is room for. -/
theorem witness_HostWritesQueueInOrder :
    (sm0Then on ([1, 2, 3, 4].map fun w => Event.host 0 (.hostTxWrite w))).events =
      [1, 2, 3, 4].map (fun w => Event.host 0 (.hostTxWrite w)) ++ [] ∧
    (on.txFifo.length + [1, 2, 3, 4].length ≤ capTx Params.default on.shiftctrl) := by decide

/-- The level and direction latches after one step. -/
def latchesAfter (s : State) : Option (Word × Word) :=
  match step s with
  | .next t => some (t.shared.pinLevel, t.shared.pinDir)
  | .fault _ => none
  | .refused _ => none

theorem witness_OutsideAccessToFlagsPinsAndClockGate : (sm0Then on [.irqGet 7]).events = .irqGet 7 :: [] ∧
    (sm0Then on [.irqSet 0]).events = .irqSet 0 :: [] ∧ (sm0Then on [.irqClear 7]).events = .irqClear 7 :: [] ∧
    (sm0Then on [.setPinIn 0xFFFFFFFF]).events = .setPinIn 0xFFFFFFFF :: [] ∧
    (sm0Then on [.readPinLevel]).events = .readPinLevel :: [] ∧ (sm0Then on [.readPinDir]).events = .readPinDir :: [] ∧
    (32 ≤ 32 ∧ (sm0Then on [.gpioSetPins 5 31 32]).events = .gpioSetPins 5 31 32 :: []) ∧
    (0 ≤ 32 ∧ (sm0Then on [.gpioSetPinDirs 5 31 0]).events = .gpioSetPinDirs 5 31 0 :: []) ∧
    (sm0Then on [.setClockEnabled 3 false]).events = .setClockEnabled 3 false :: [] := by decide

/-- R86: bit 0 of the data goes to pin 31, bit 1 to pin 0, bit 2 lies outside the window. -/
theorem test_outside_latch_write_wraps : latchesAfter (sm0Then on [.gpioSetPins 0b110 31 2]) = some (1, 0) ∧
    latchesAfter (sm0Then on [.gpioSetPinDirs 0b101 31 2]) = some (0, 0x80000000) := by decide

/-! ### The host's entry points -/

/-- `withFetchWord` makes the very next step run the word, from reset. -/
theorem test_withFetchWord : (after (State.reset.withFetchWord 16 0xE03F)).map (fun p => (p.1.x, p.1.pc)) = some (31, 1) ∧
    decodeTableWord 16 0xE03F = some (.setX 0 31) := by decide

end Sys2Proof.Tests
end

section
/-! PROOFS. The state of an SM (spec/10_state.md): what every step keeps, which instructions write a scratch
register or an IRQ flag, the IRQ WAIT latch, and the host's access to the registers. -/

namespace Sys2Proof.Machine

/-! ### Legal SMs -/

theorem SM.Legal.bounded {p : Params} {m : SM} (h : m.Legal p) : Bounded p m := by
  obtain ⟨hisr, hosr, -, -, -, -, -, htx, hrx, -⟩ := h
  exact ⟨hisr, hosr, htx, hrx⟩

/-- A legal SM stays legal when its counters and FIFOs end in range, its delay is at most 31, and its fault record and
the configuration that R35 speaks of stand. -/
theorem SM.Legal.of_bounded {p : Params} {m m' : SM} (h : m.Legal p) (hb : Bounded p m')
    (hd : m'.pendingDelay ≤ 31) (hf : m'.fault = m.fault) (hs : m'.shiftctrl = m.shiftctrl)
    (hp : m'.pinctrl = m.pinctrl) : m'.Legal p := by
  obtain ⟨-, -, -, hside, hset, hout, hjoin, -, -, hfault⟩ := h
  refine ⟨hb.isr, hb.osr, hd, ?_, ?_, ?_, ?_, hb.tx, hb.rx, ?_⟩
  · rwa [hp]
  · rwa [hp]
  · rwa [hp]
  · rwa [hs]
  · rwa [hf]

/-- R343: a decode error may be recorded in a legal SM. -/
theorem SM.Legal.withDecodeError {p : Params} {m : SM} (h : m.Legal p) (pc : Index) (w : InstrWord) :
    { m with fault := some (.decodeError pc w) }.Legal p := by
  obtain ⟨hisr, hosr, hd, hside, hset, hout, hjoin, htx, hrx, -⟩ := h
  exact ⟨hisr, hosr, hd, hside, hset, hout, hjoin, htx, hrx, trivial⟩

/-- Steps 6 to 8 of the tick keep an SM legal: the delay they arm has five bits. -/
theorem View.finish_legal {p : Params} {v : View} (h : v.sm.Legal p) (df : BitVec 5) (r : ResultState) :
    (v.finish df r).sm.Legal p := by
  rw [View.finish_sm]
  refine h.of_bounded ⟨h.bounded.isr, h.bounded.osr, h.bounded.tx, h.bounded.rx⟩ ?_ rfl rfl rfl
  have hdf := df.isLt
  obtain ⟨-, -, hd, -⟩ := h
  show (if r = .stall then v.sm.pendingDelay
    else df.toNat % 2 ^ (5 - v.sm.pinctrl.sidesetCount.toNat)) ≤ 31
  split
  · exact hd
  · have := Nat.mod_le df.toNat (2 ^ (5 - v.sm.pinctrl.sidesetCount.toNat))
    omega

/-- Every body keeps an SM legal. -/
theorem bodyOf_legal {f : Form} {v v' : View} {r : ResultState} (hl : v.sm.Legal v.params)
    (h : bodyOf f v = .ok (v', r)) : v'.sm.Legal v.params := by
  have frame := bodyOf_frame h
  obtain ⟨-, -, hd, -⟩ := id hl
  exact hl.of_bounded (bodyOf_bounded hl.bounded h) (by rwa [frame.pendingDelay]) frame.fault frame.shiftctrl
    frame.pinctrl

/-! ### What a tick writes: its own SM and the shared part, never the memory -/

/-- An instruction writes its own SM and the shared part, and of that not the memory. -/
theorem exec_frame {i : Instr} {s t : State} (h : exec i s = .next t) :
    t.params = s.params ∧ t.shared.imem = s.shared.imem ∧ ∀ n, n ≠ s.cur → t.sm n = s.sm n := by
  rcases exec_next h with ⟨row, lsb, -, rfl⟩ | ⟨v, r, hb, rfl⟩
  · exact ⟨rfl, rfl, fun n hn => s.sm_putView_ne _ hn⟩
  · refine ⟨rfl, ?_, fun n hn => s.sm_putView_ne _ hn⟩
    rw [State.putView_shared, View.finish_shared, View.sideSet_imem, (bodyOf_frame hb).imem]
    rfl

/-- The IRQ latch is no part of what makes an SM legal. -/
theorem State.setIrqWait_legal (s : State) (hl : (s.sm s.cur).Legal s.params) (l : Option (BitVec 3)) :
    (s.view.setIrqWait l).sm.Legal (s.view.setIrqWait l).params := hl

/-- An instruction keeps its own SM legal. -/
theorem exec_legal {i : Instr} {s t : State} (hl : (s.sm s.cur).Legal s.params) (h : exec i s = .next t) :
    (t.sm s.cur).Legal s.params := by
  rcases exec_next h with ⟨row, lsb, -, rfl⟩ | ⟨v, r, hb, rfl⟩
  · rw [State.sm_putView_cur]
    exact hl.withDecodeError _ _
  · rw [State.sm_putView_cur]
    exact View.finish_legal (bodyOf_legal (s.setIrqWait_legal hl _) hb) _ _

/-- A tick writes its own SM and the shared part, and of that not the memory. -/
theorem tick_frame {s t : State} (h : tick s = .next t) :
    t.params = s.params ∧ t.shared.imem = s.shared.imem ∧ ∀ n, n ≠ s.cur → t.sm n = s.sm n := by
  rcases tick_cases s with ⟨-, e⟩ | ⟨-, -, e⟩ | ⟨-, e⟩ <;> rw [e] at h
  · injection h with h; subst h
    exact ⟨rfl, rfl, fun _ _ => rfl⟩
  · injection h with h; subst h
    exact ⟨rfl, rfl, fun n hn => s.sm_setSm_ne _ hn⟩
  · obtain ⟨hp, hi, hn⟩ := exec_frame h
    exact ⟨hp, hi, fun n hne => (hn n hne).trans (s.emptySlot_sm_ne hne)⟩

/-- A tick keeps its own SM legal. -/
theorem tick_legal {s t : State} (hl : (s.sm s.cur).Legal s.params) (h : tick s = .next t) :
    (t.sm s.cur).Legal s.params := by
  rcases tick_cases s with ⟨-, e⟩ | ⟨-, -, e⟩ | ⟨-, e⟩ <;> rw [e] at h
  · injection h with h; subst h
    exact hl
  · injection h with h; subst h
    obtain ⟨-, -, hd, -⟩ := id hl
    rw [State.setCurSm, State.sm_setSm_self]
    exact hl.of_bounded ⟨hl.bounded.isr, hl.bounded.osr, hl.bounded.tx, hl.bounded.rx⟩
      ((Nat.sub_le _ _).trans hd) rfl rfl rfl
  · have hslot : (s.emptySlot.sm s.emptySlot.cur).Legal s.emptySlot.params := by
      rw [State.emptySlot_cur, State.emptySlot_sm_cur]
      exact hl
    exact exec_legal (s := s.emptySlot) hslot h

/-- R292 step 1, R349: a tick of an SM that has recorded a fault changes nothing. -/
theorem tick_faulted {s : State} (hf : (s.sm s.cur).fault ≠ none) : tick s = .next s :=
  tick_gated (Bool.eq_false_iff.2 fun hr => hf ((SM.running_iff _).1 hr).2.2)

/-- A tick of any SM leaves an SM that has recorded a fault as it is. -/
theorem tick_keeps_faulted {s t : State} {n : Fin 4} (hf : (s.sm n).fault ≠ none) (h : tick s = .next t) :
    t.sm n = s.sm n := by
  by_cases hn : n = s.cur
  · subst hn
    rw [tick_faulted hf] at h
    injection h with h; rw [h]
  · obtain ⟨-, -, others⟩ := tick_frame h
    exact others n hn

/-! ### The host operations on one SM -/

/-- R80: a change of the join flags that leaves not both set keeps an SM legal, because it empties both FIFOs. -/
theorem SM.Legal.storeJoins {p : Params} {m : SM} (h : m.Legal p) {rx tx : Bool} (hj : (rx && tx) = false) :
    (m.storeJoins rx tx).Legal p := by
  unfold SM.storeJoins
  split
  · exact h
  · obtain ⟨hisr, hosr, hd, hside, hset, hout, -, -, -, hfault⟩ := h
    exact ⟨hisr, hosr, hd, hside, hset, hout, hj, Nat.zero_le _, Nat.zero_le _, hfault⟩

/-- R80: the capacities depend on the join flags only. -/
theorem SM.Legal.withShiftctrl {p : Params} {m : SM} (h : m.Legal p) {c : ShiftCtrl}
    (hr : c.joinRx = m.shiftctrl.joinRx) (ht : c.joinTx = m.shiftctrl.joinTx) :
    { m with shiftctrl := c }.Legal p := by
  obtain ⟨hisr, hosr, hd, hside, hset, hout, hjoin, htx, hrx, hfault⟩ := h
  refine ⟨hisr, hosr, hd, hside, hset, hout, ?_, ?_, ?_, hfault⟩
  · rwa [hr, ht]
  · show m.txFifo.length ≤ capTx p c
    rwa [capTx, hr, ht]
  · show m.rxFifo.length ≤ capRx p c
    rwa [capRx, hr, ht]

theorem SM.storeJoins_joinRx (m : SM) (rx tx : Bool) : (m.storeJoins rx tx).shiftctrl.joinRx = rx := by
  unfold SM.storeJoins
  split
  · next h => exact h.1
  · rfl

theorem SM.storeJoins_joinTx (m : SM) (rx tx : Bool) : (m.storeJoins rx tx).shiftctrl.joinTx = tx := by
  unfold SM.storeJoins
  split
  · next h => exact h.2
  · rfl

theorem SM.storeJoins_fault (m : SM) (rx tx : Bool) : (m.storeJoins rx tx).fault = m.fault := by
  unfold SM.storeJoins
  split <;> rfl

/-- R44: no field of PINCTRL is illegal exactly when the three counts are in range. -/
theorem PinCtrl.illegal_eq_nil_iff (c : PinCtrl) :
    c.illegal = [] ↔ c.sidesetCount.toNat ≤ 5 ∧ c.setCount.toNat ≤ 5 ∧ c.outCount.toNat ≤ 31 := by
  rw [PinCtrl.illegal, List.filter_eq_nil_iff]
  simp only [decide_eq_true_eq, Nat.not_lt]
  simp [NumField.max]

/-- R44, R318: a word of SHIFTCTRL without both join bits is stored. -/
theorem SM.setShiftctrl_accepted {m : SM} {x : Word}
    (h : ((ShiftCtrl.unpack x).joinRx && (ShiftCtrl.unpack x).joinTx) = false) :
    m.setShiftctrl x = ({ m.storeJoins (ShiftCtrl.unpack x).joinRx (ShiftCtrl.unpack x).joinTx with
      shiftctrl := .unpack x }, .done) := by
  simp only [SM.setShiftctrl, h, Bool.false_eq_true, if_false]

/-- R80, D14: a word of SHIFTCTRL with both join bits is refused. -/
theorem SM.setShiftctrl_refused {m : SM} {x : Word}
    (h : ((ShiftCtrl.unpack x).joinRx && (ShiftCtrl.unpack x).joinTx) = true) :
    m.setShiftctrl x = (m, .failed (.invalidArgument .join x.toNat)) := by
  simp only [SM.setShiftctrl, h, if_true, refuseArgument]

/-- R44, R318: a word of PINCTRL with its counts in range is stored. -/
theorem SM.setPinctrl_accepted {m : SM} {x : Word} (h : (PinCtrl.unpack x).illegal = []) :
    m.setPinctrl x = ({ m with pinctrl := .unpack x }, .done) := by
  simp only [SM.setPinctrl, h]

/-- R44, R318: any other word of PINCTRL is refused. -/
theorem SM.setPinctrl_refused {m : SM} {x : Word} (h : (PinCtrl.unpack x).illegal ≠ []) :
    ∃ f v, m.setPinctrl x = (m, .failed (.invalidArgument f v)) := by
  obtain ⟨⟨f, v⟩, rest, e⟩ := List.exists_cons_of_ne_nil h
  exact ⟨.num f, v, by simp only [SM.setPinctrl, e, refuseArgument]⟩

/-- R319: a value in range in a numeric field keeps an SM legal. -/
theorem SM.Legal.storeNum {p : Params} {m : SM} (h : m.Legal p) {f : NumField} {v : Nat} (hv : v ≤ f.max) :
    (m.storeNum f v).Legal p := by
  obtain ⟨hisr, hosr, hd, hside, hset, hout, hjoin, htx, hrx, hfault⟩ := id h
  cases f
  case sidesetCount =>
    exact ⟨hisr, hosr, hd, (Nat.mod_le _ _).trans hv, hset, hout, hjoin, htx, hrx, hfault⟩
  case setCount =>
    exact ⟨hisr, hosr, hd, hside, (Nat.mod_le _ _).trans hv, hout, hjoin, htx, hrx, hfault⟩
  case outCount =>
    exact ⟨hisr, hosr, hd, hside, hset, (Nat.mod_le _ _).trans hv, hjoin, htx, hrx, hfault⟩
  case pullThresh | pushThresh => exact h.withShiftctrl rfl rfl
  all_goals exact h

theorem SM.setNum_legal {p : Params} {m : SM} (h : m.Legal p) (f : NumField) (v : Nat) : (m.setNum f v).1.Legal p := by
  by_cases hv : v ≤ f.max
  · rw [SM.setNum_accepted hv]; exact h.storeNum hv
  · rw [SM.setNum_refused (Nat.not_le.1 hv)]; exact h

theorem SM.setFlagField_legal {p : Params} {m : SM} (h : m.Legal p) (f : FlagField) (b : Bool) :
    (m.setFlagField f b).1.Legal p := by
  cases f
  case sideEn | statusSel => exact h
  case autopull | autopush => exact h.withShiftctrl rfl rfl
  case joinRx =>
    simp only [SM.setFlagField]
    split
    · exact h
    · next hj => exact h.storeJoins (Bool.not_eq_true _ ▸ hj)
  case joinTx =>
    simp only [SM.setFlagField]
    split
    · exact h
    · next hj => exact h.storeJoins (by rw [Bool.and_comm]; exact Bool.not_eq_true _ ▸ hj)

theorem SM.setShiftctrl_legal {p : Params} {m : SM} (h : m.Legal p) (x : Word) : (m.setShiftctrl x).1.Legal p := by
  cases hj : (ShiftCtrl.unpack x).joinRx && (ShiftCtrl.unpack x).joinTx
  · rw [SM.setShiftctrl_accepted hj]
    exact (h.storeJoins hj).withShiftctrl (m.storeJoins_joinRx _ _).symm (m.storeJoins_joinTx _ _).symm
  · rw [SM.setShiftctrl_refused hj]; exact h

theorem SM.setPinctrl_legal {p : Params} {m : SM} (h : m.Legal p) (x : Word) : (m.setPinctrl x).1.Legal p := by
  by_cases hx : (PinCtrl.unpack x).illegal = []
  · rw [SM.setPinctrl_accepted hx]
    obtain ⟨hside, hset, hout⟩ := (PinCtrl.illegal_eq_nil_iff _).1 hx
    obtain ⟨hisr, hosr, hd, -, -, -, hjoin, htx, hrx, hfault⟩ := h
    exact ⟨hisr, hosr, hd, hside, hset, hout, hjoin, htx, hrx, hfault⟩
  · obtain ⟨f, v, e⟩ := SM.setPinctrl_refused (m := m) hx
    rw [e]; exact h

/-- R313: a value in range is the PC. -/
theorem SM.setPcOp_accepted {m : SM} {v : Nat} (h : v ≤ 31) :
    m.setPcOp v = ({ m with pc := BitVec.ofNat 5 v }, .done) := if_neg (Nat.not_lt.2 h)

/-- R313, R341: a value out of range is refused with no change. -/
theorem SM.setPcOp_refused {m : SM} {v : Nat} (h : 31 < v) :
    m.setPcOp v = (m, .failed (.invalidArgument .pc v)) := if_pos h

/-- R316: an injected word fills an empty slot. -/
theorem SM.insertInstruction_empty {m : SM} (word : InstrWord) (h : m.pendingInstruction = none) :
    m.insertInstruction word = ({ m with pendingInstruction := some word }, .done) := by
  simp [SM.insertInstruction, h]

/-- R316, R344: an occupied slot refuses a second word. -/
theorem SM.insertInstruction_occupied {m : SM} (word : InstrWord) (h : m.pendingInstruction ≠ none) :
    m.insertInstruction word = (m, .failed (.internalInvariantViolation .secondPendingInstruction)) :=
  if_pos (Option.isSome_iff_ne_none.2 h)

/-- R81, R323: a host write with room goes to the tail of the TX FIFO. -/
theorem SM.hostTxWrite_room {p : Params} {m : SM} (w : Word) (h : m.txFifo.length < capTx p m.shiftctrl) :
    m.hostTxWrite p w = ({ m with txFifo := m.txFifo ++ [w] }, .done) := if_pos h

/-- R323: a host write without room is refused. -/
theorem SM.hostTxWrite_full {p : Params} {m : SM} (w : Word) (h : capTx p m.shiftctrl ≤ m.txFifo.length) :
    m.hostTxWrite p w = (m, .refused) := if_neg (Nat.not_lt.2 h)

/-- R81, R323: a host read takes the head of the RX FIFO. -/
theorem SM.hostRxRead_nil {m : SM} (h : m.rxFifo = []) : m.hostRxRead = (m, .refused) := by
  simp only [SM.hostRxRead, h]

theorem SM.hostRxRead_cons {m : SM} {w : Word} {rest : List Word} (h : m.rxFifo = w :: rest) :
    m.hostRxRead = ({ m with rxFifo := rest }, .word w) := by
  simp only [SM.hostRxRead, h]

theorem SM.insertInstruction_legal {p : Params} {m : SM} (h : m.Legal p) (word : InstrWord) :
    (m.insertInstruction word).1.Legal p := by
  by_cases hs : m.pendingInstruction = none
  · rw [SM.insertInstruction_empty word hs]; exact h
  · rw [SM.insertInstruction_occupied word hs]; exact h

theorem SM.setPcOp_legal {p : Params} {m : SM} (h : m.Legal p) (v : Nat) : (m.setPcOp v).1.Legal p := by
  rcases Nat.lt_or_ge 31 v with hv | hv
  · rw [SM.setPcOp_refused hv]; exact h
  · rw [SM.setPcOp_accepted hv]; exact h

theorem SM.restart_legal {p : Params} {m : SM} (h : m.Legal p) : m.restart.Legal p :=
  h.of_bounded ⟨Nat.zero_le _, Nat.le_refl _, h.bounded.tx, h.bounded.rx⟩ (Nat.zero_le _) rfl rfl rfl

/-- R77: a host write keeps the TX FIFO within its capacity. -/
theorem SM.hostTxWrite_legal {p : Params} {m : SM} (h : m.Legal p) (w : Word) : (m.hostTxWrite p w).1.Legal p := by
  rcases Nat.lt_or_ge m.txFifo.length (capTx p m.shiftctrl) with hroom | hfull
  · rw [SM.hostTxWrite_room w hroom]
    obtain ⟨-, -, hd, -⟩ := id h
    refine h.of_bounded ⟨h.bounded.isr, h.bounded.osr, ?_, h.bounded.rx⟩ hd rfl rfl rfl
    show (m.txFifo ++ [w]).length ≤ capTx p m.shiftctrl
    rwa [List.length_append, List.length_singleton]
  · rw [SM.hostTxWrite_full w hfull]; exact h

theorem SM.hostRxRead_legal {p : Params} {m : SM} (h : m.Legal p) : m.hostRxRead.1.Legal p := by
  cases hr : m.rxFifo with
  | nil => rw [SM.hostRxRead_nil hr]; exact h
  | cons w rest =>
    rw [SM.hostRxRead_cons hr]
    obtain ⟨-, -, hd, -⟩ := id h
    refine h.of_bounded ⟨h.bounded.isr, h.bounded.osr, h.bounded.tx, ?_⟩ hd rfl rfl rfl
    have hle := h.bounded.rx
    rw [hr, List.length_cons] at hle
    exact (Nat.le_succ _).trans hle

/-- Every host operation keeps an SM legal. -/
theorem SM.hostOp_legal {p : Params} {m : SM} (h : m.Legal p) (op : HostOp) : (m.hostOp p op).1.Legal p := by
  cases op
  case restart => exact m.restart_legal h
  case setPC v => exact m.setPcOp_legal h v
  case insertInstruction word => exact m.insertInstruction_legal h word
  case setSHIFTCTRL x => exact m.setShiftctrl_legal h x
  case setPINCTRL x => exact m.setPinctrl_legal h x
  case setNum f v => exact m.setNum_legal h f v
  case setFlag f b => exact m.setFlagField_legal h f b
  case hostTxWrite w => exact m.hostTxWrite_legal h w
  case hostRxRead => exact m.hostRxRead_legal h
  case setInShiftdir | setOutShiftdir => exact h.withShiftctrl rfl rfl
  all_goals exact h

theorem SM.setFlagField_fault (m : SM) (f : FlagField) (b : Bool) : (m.setFlagField f b).1.fault = m.fault := by
  cases f
  case joinRx | joinTx =>
    simp only [SM.setFlagField]
    split
    · rfl
    · exact m.storeJoins_fault _ _
  all_goals rfl

theorem SM.setNum_fault (m : SM) (f : NumField) (v : Nat) : (m.setNum f v).1.fault = m.fault := by
  by_cases hv : v ≤ f.max
  · rw [SM.setNum_accepted hv]; cases f <;> rfl
  · rw [SM.setNum_refused (Nat.not_le.1 hv)]

theorem SM.setShiftctrl_fault (m : SM) (x : Word) : (m.setShiftctrl x).1.fault = m.fault := by
  cases hj : (ShiftCtrl.unpack x).joinRx && (ShiftCtrl.unpack x).joinTx
  · rw [SM.setShiftctrl_accepted hj]; exact m.storeJoins_fault _ _
  · rw [SM.setShiftctrl_refused hj]

theorem SM.setPinctrl_fault (m : SM) (x : Word) : (m.setPinctrl x).1.fault = m.fault := by
  by_cases hx : (PinCtrl.unpack x).illegal = []
  · rw [SM.setPinctrl_accepted hx]
  · obtain ⟨f, v, e⟩ := SM.setPinctrl_refused (m := m) hx
    rw [e]

/-- R349: no host operation writes the fault record, `restart` neither. -/
theorem SM.hostOp_fault (p : Params) (m : SM) (op : HostOp) : (m.hostOp p op).1.fault = m.fault := by
  cases op
  case setPC v =>
    show (m.setPcOp v).1.fault = m.fault
    unfold SM.setPcOp; split <;> rfl
  case insertInstruction word =>
    show (m.insertInstruction word).1.fault = m.fault
    unfold SM.insertInstruction; split <;> rfl
  case setSHIFTCTRL x => exact m.setShiftctrl_fault x
  case setPINCTRL x => exact m.setPinctrl_fault x
  case setNum f v => exact m.setNum_fault f v
  case setFlag f b => exact m.setFlagField_fault f b
  case hostTxWrite w =>
    show (m.hostTxWrite p w).1.fault = m.fault
    unfold SM.hostTxWrite; split <;> rfl
  case hostRxRead =>
    show m.hostRxRead.1.fault = m.fault
    unfold SM.hostRxRead; split <;> rfl
  all_goals rfl

/-! ### The invariant -/

/-- The invariant, when SM `n` is the only one that changed. -/
theorem State.Inv.of_change {s t : State} (h : s.Inv) (n : Fin 4) (hp : t.params = s.params)
    (hl : (t.sm n).Legal s.params) (ho : ∀ k, k ≠ n → t.sm k = s.sm k) (hw : t.shared.imem.wf) : t.Inv := by
  obtain ⟨hparams, hsms, -⟩ := h
  refine ⟨by rwa [hp], fun k => ?_, hw⟩
  rw [hp]
  by_cases hk : k = n
  · rw [hk]; exact hl
  · rw [ho k hk]; exact hsms k

/-- The invariant speaks of the parameters, the SMs and the memory only. -/
theorem State.Inv.of_same_sms {s t : State} (h : s.Inv) (hp : t.params = s.params) (hm : t.sms = s.sms)
    (hw : t.shared.imem.wf) : t.Inv := by
  have hsm : ∀ k, t.sm k = s.sm k := fun k => by simp only [State.sm, hm]
  obtain ⟨-, hsms, -⟩ := id h
  exact h.of_change 0 hp (by rw [hsm]; exact hsms 0) (fun k _ => hsm k) hw

theorem tick_keeps_inv {s t : State} (h : s.Inv) (ht : tick s = .next t) : t.Inv := by
  obtain ⟨-, hsms, hw⟩ := id h
  obtain ⟨hp, hi, ho⟩ := tick_frame ht
  exact h.of_change s.cur hp (tick_legal (hsms s.cur) ht) ho (by rwa [hi])

theorem edge_keeps_inv {s t : State} {n : Fin 4} (h : s.Inv) (ht : edge n s = .next t) : t.Inv := by
  obtain ⟨u, hu, rfl⟩ := edge_next ht
  have hu' : u.Inv := tick_keeps_inv (s := { s with cur := n }) h hu
  exact hu'

/-- Every transition of R300 keeps the invariant. -/
theorem applyEvent_keeps_inv {s t : State} {e : Event} (h : s.Inv) (ht : applyEvent e s = .next t) : t.Inv := by
  obtain ⟨-, hsms, hw⟩ := id h
  cases e
  case edge n => exact edge_keeps_inv h ht
  all_goals (injection ht with ht; subst ht)
  case host n op =>
    refine h.of_change n rfl ?_ (fun k hk => s.sm_setSm_ne _ hk) hw
    simp only [State.host, State.sm_with_reply, State.sm_setSm_self]
    exact SM.hostOp_legal (hsms n) op
  case setClockEnabled n v =>
    refine h.of_change n rfl ?_ (fun k hk => s.sm_setSm_ne _ hk) hw
    rw [State.sm_setSm_self]
    exact hsms n
  case memorySet a w => exact h.of_same_sms rfl rfl (memorySet_wf hw a w)
  all_goals exact h.of_same_sms rfl rfl hw

theorem step_keeps_inv {s t : State} (h : s.Inv) (ht : step s = .next t) : t.Inv := by
  cases he : s.events with
  | nil => rw [step_nil he] at ht; exact tick_keeps_inv h ht
  | cons e rest =>
    rw [step_cons he] at ht
    exact applyEvent_keeps_inv (s := { s with events := rest }) h ht

/-- Settles O45: the tick keeps its own SM legal and writes no other and no memory; each host operation keeps its SM
legal; a load keeps the memory in canonical form. -/
theorem stepKeepsInvariant : Obligations.StepKeepsInvariant :=
  fun _ _ h ht => step_keeps_inv h ht

/-! ### The sticky fault -/

/-- R349: an event leaves the SM that has recorded a fault as it is, unless it is a host operation on that SM or a write
of its clock gate; those two keep the record. -/
theorem applyEvent_keeps_faulted {s t : State} {n : Fin 4} {e : Event} (hf : (s.sm n).fault ≠ none)
    (ht : applyEvent e s = .next t) :
    (t.sm n).fault = (s.sm n).fault ∧
      ((∀ op, e ≠ .host n op) → (∀ v, e ≠ .setClockEnabled n v) → t.sm n = s.sm n) := by
  have same : t.sm n = s.sm n → (t.sm n).fault = (s.sm n).fault ∧
      ((∀ op, e ≠ .host n op) → (∀ v, e ≠ .setClockEnabled n v) → t.sm n = s.sm n) :=
    fun h => ⟨by rw [h], fun _ _ => h⟩
  cases e
  case edge k =>
    obtain ⟨u, hu, rfl⟩ := edge_next ht
    have hu' : u.sm n = s.sm n := tick_keeps_faulted (s := { s with cur := k }) hf hu
    exact same hu'
  all_goals (injection ht with ht; subst ht)
  case host k op =>
    by_cases hk : n = k
    · subst hk
      refine ⟨?_, fun h => absurd rfl (h op)⟩
      simp only [State.host, State.sm_with_reply, State.sm_setSm_self]
      exact SM.hostOp_fault _ _ op
    · exact same (s.sm_setSm_ne _ hk)
  case setClockEnabled k v =>
    by_cases hk : n = k
    · subst hk
      exact ⟨by rw [State.sm_setSm_self], fun _ h => absurd rfl (h v)⟩
    · exact same (s.sm_setSm_ne _ hk)
  all_goals exact same rfl

/-- Settles O48, by the tick of a faulted SM, which R292 step 1 gates, and the events one by one. -/
theorem faultIsSticky : Obligations.FaultIsSticky := by
  intro s t n hf ht
  cases he : s.events with
  | nil =>
    rw [step_nil he] at ht
    have h := tick_keeps_faulted hf ht
    exact ⟨by rw [h], fun _ _ => h⟩
  | cons e rest =>
    rw [step_cons he] at ht
    obtain ⟨hrecord, hsm⟩ := applyEvent_keeps_faulted (s := { s with events := rest }) hf ht
    exact ⟨hrecord, fun hop hgate =>
      hsm (fun op h => hop op rest (by rw [h])) (fun v h => hgate v rest (by rw [h]))⟩

/-! ### Construction -/

theorem SM.Constructed.legal {m : SM} (h : m.Constructed) (p : Params) : m.Legal p := by
  obtain ⟨hisr, hosr, -, hd, -, -, hf, -, -, -, -, htx, hrx, hside, hset, hout, hjoin⟩ := h
  refine ⟨by omega, by omega, by omega, hside, hset, hout, hjoin, ?_, ?_, ?_⟩
  · rw [htx]; exact Nat.zero_le _
  · rw [hrx]; exact Nat.zero_le _
  · rw [hf]; trivial

theorem State.Constructed.inv {s : State} (h : s.Constructed) : s.Inv := by
  obtain ⟨hp, hsms, -, hw⟩ := h
  exact ⟨hp, fun n => (hsms n).legal _, hw⟩

/-- Settles O47: empty FIFOs fit any capacity, and the counters 0 and 32 are in range. -/
theorem constructedIsLegal : Obligations.ConstructedIsLegal := fun _ h => h.inv

theorem State.reset_sm (n : Fin 4) : State.reset.sm n = SM.reset := by
  fin_cases n <;> rfl

theorem SM.reset_constructed : SM.reset.Constructed := by
  unfold SM.Constructed; decide

theorem State.reset_constructed : State.reset.Constructed := by
  refine ⟨by decide, fun n => ?_, rfl, by decide⟩
  rw [State.reset_sm]; exact SM.reset_constructed

/-- Settles O46: the reset state is one that construction may leave, and with it legal. -/
theorem resetIsLegalAndConstructed : Obligations.ResetIsLegalAndConstructed :=
  ⟨State.reset_constructed.inv, State.reset_constructed⟩

/-! ### Which instructions write X, Y or an IRQ flag -/

/-- Settles O39: what a body can do to X and Y is all that an instruction does to them, because steps 6 to 8 of the tick
and a decode error leave both alone. -/
theorem scratchRegisterWriters : Obligations.ScratchRegisterWriters := by
  intro i s t h
  rcases exec_next h with ⟨row, lsb, -, rfl⟩ | ⟨v, r, hb, rfl⟩
  · rw [State.sm_putView_cur]
    exact ⟨fun hx => absurd rfl hx, fun hy => absurd rfl hy⟩
  · have effect := bodyOf_effect hb
    rw [State.sm_putView_cur, View.finish_sm]
    exact ⟨effect.x.resolve_left, effect.y.resolve_left⟩

/-- Settles O41: what a body can do to the flags is all that an instruction does to them, because the side-set and a
decode error leave them alone. -/
theorem irqFlagWriters : Obligations.IrqFlagWriters := by
  intro i s t k h hk hne
  rcases exec_next h with ⟨row, lsb, -, rfl⟩ | ⟨v, r, hb, rfl⟩
  · exact absurd rfl hne
  · rw [State.putView_shared, View.finish_shared, View.sideSet_irq] at hne ⊢
    exact bodyOf_irq hb k hk hne

/-! ### IRQ WAIT and its latch -/

theorem exec_irqWait {i : Instr} {index : IrqIndex} (s : State) (hi : i.form = .irqWait index) :
    exec i s = retireKeepingLatch i.df (setAndWait index) s := by
  rw [exec_eq_meaning, hi]; rfl

/-- R273: a flag set before and found LOW ends the wait and empties the latch. -/
theorem setAndWait_low {v : View} {index : IrqIndex} (hl : v.sm.irqWait = some (irqNum v.num index))
    (hf : irqGet v.shared.irq (irqNum v.num index) = false) :
    setAndWait index v = .ok (v.setIrqWait none, .complete) := by
  simp only [setAndWait, if_pos hl, hf, Bool.false_eq_true, if_false]

/-- R273: a flag set before and still HIGH holds the wait. -/
theorem setAndWait_high {v : View} {index : IrqIndex} (hl : v.sm.irqWait = some (irqNum v.num index))
    (hf : irqGet v.shared.irq (irqNum v.num index) = true) :
    setAndWait index v = .ok (v, .stall) := by
  simp only [setAndWait, if_pos hl, hf, if_true]

/-- R89: a flag that was set is HIGH. -/
theorem irqGet_irqSet (sh : Shared) (n : BitVec 3) : irqGet (sh.irqSet n).irq n = true := by
  rw [irqGet_eq, Shared.irqSet_spec sh n n.toNat n.isLt, if_pos rfl]

/-- R273: a wait that has not set its flag sets it, latches that, and waits. -/
theorem setAndWait_first {v : View} {index : IrqIndex} (hl : v.sm.irqWait ≠ some (irqNum v.num index)) :
    setAndWait index v =
      .ok ((v.irqSet (irqNum v.num index)).setIrqWait (some (irqNum v.num index)), .stall) := by
  simp only [setAndWait, if_neg hl, View.setIrqWait_shared, View.irqSet_shared, irqGet_irqSet, if_true]

/-- A latch with the flag number of an index is that flag. -/
theorem irqNum_of_flagNumber {num : Fin 4} {index : IrqIndex} {latch : BitVec 3}
    (h : latch.toNat = flagNumber num index) : latch = irqNum num index :=
  BitVec.eq_of_toNat_eq (h.trans (irqNum_toNat num index).symm)

/-- Settles O29: the latch is the flag of the index, so the body completes and empties it. -/
theorem irqWaitCompletesWhenFlagLow : Obligations.IrqWaitCompletesWhenFlagLow := by
  intro i index latch s hi hl hn hf
  obtain rfl := irqNum_of_flagNumber hn
  rw [exec_irqWait s hi]
  exact retireKeepingLatch_of_body (setAndWait_low (v := s.view) hl hf) rfl rfl

/-- Settles O30, by whether the latch holds the flag. -/
theorem irqWaitSetsOnceAndStalls : Obligations.IrqWaitSetsOnceAndStalls := by
  intro i index s hi
  rw [exec_irqWait s hi]
  refine ⟨fun latch hl hn hf => ?_, fun hlatch => ?_⟩
  · obtain rfl := irqNum_of_flagNumber hn
    exact retireKeepingLatch_of_body (setAndWait_high (v := s.view) hl hf) rfl rfl
  · have hl : s.view.sm.irqWait ≠ some (irqNum s.cur index) := fun h => hlatch _ h (irqNum_toNat _ _)
    obtain ⟨t, ht, hretired⟩ := retireKeepingLatch_of_body (df := i.df) (setAndWait_first (v := s.view) hl) rfl rfl
    refine ⟨t, s.shared.irqSet (irqNum s.cur index), irqNum s.cur index, ht, irqNum_toNat _ _, ⟨rfl, ?_⟩,
      hretired⟩
    rw [← irqNum_toNat]
    exact Shared.irqSet_spec _ _

/-! ### The packed configuration registers -/

/-- A field of a word is given by its bits. -/
theorem extractLsb'_eq_of_bits {w : Word} {n start : Nat} {f : BitVec n}
    (h : ∀ k < n, w.getLsbD (start + k) = f.getLsbD k) : w.extractLsb' start n = f := by
  refine BitVec.eq_of_getLsbD_eq fun k hk => ?_
  rw [BitVec.getLsbD_extractLsb', decide_eq_true hk, Bool.true_and, h k hk]

/-- A field of a word as a number. -/
theorem extractLsb'_toNat_div (w : Word) (start n : Nat) :
    (w.extractLsb' start n).toNat = w.toNat / 2 ^ start % 2 ^ n := by
  rw [BitVec.extractLsb'_toNat, Nat.shiftRight_eq_div_pow]

theorem getLsbD_append_low {n m i : Nat} (x : BitVec n) (y : BitVec m) (h : i < m) :
    (x ++ y).getLsbD i = y.getLsbD i := by
  rw [BitVec.getLsbD_append, if_pos h]

theorem getLsbD_append_high {n m i : Nat} (x : BitVec n) (y : BitVec m) (h : m ≤ i) :
    (x ++ y).getLsbD i = x.getLsbD (i - m) := by
  rw [BitVec.getLsbD_append, if_neg (Nat.not_lt.2 h)]

theorem getLsbD_ofBool_zero (b : Bool) : (BitVec.ofBool b).getLsbD 0 = b := by cases b <;> rfl

theorem SideTarget.ofBit_toBit (d : SideTarget) : SideTarget.ofBit (d.toBit.getLsbD 0) = d := by
  cases d <;> rfl

theorem SideTarget.toBit_ofBit (b : Bool) : (SideTarget.ofBit b).toBit = BitVec.ofBool b := by
  cases b <;> rfl

theorem ShiftDir.ofBit_toBit (d : ShiftDir) : ShiftDir.ofBit (d.toBit.getLsbD 0) = d := by
  cases d <;> rfl

theorem ShiftDir.toBit_ofBit (b : Bool) : (ShiftDir.ofBit b).toBit = BitVec.ofBool b := by
  cases b <;> rfl

/-- R41: the fields a write of EXECCTRL sets. -/
theorem ExecCtrl.unpack_fields (x : Word) : ExecFields (.unpack x) x where
  sideEn := rfl
  sidePindir := rfl
  jmpPin := extractLsb'_toNat_div x 24 5
  wrapTop := extractLsb'_toNat_div x 12 5
  wrapBottom := extractLsb'_toNat_div x 7 5
  statusSel := rfl
  statusN := (extractLsb'_toNat_div x 0 4).trans (by omega)

/-- R42: the fields a write of SHIFTCTRL sets. -/
theorem ShiftCtrl.unpack_fields (x : Word) : ShiftFields (.unpack x) x where
  joinRx := rfl
  joinTx := rfl
  pullThresh := extractLsb'_toNat_div x 25 5
  pushThresh := extractLsb'_toNat_div x 20 5
  outShiftdir := rfl
  inShiftdir := rfl
  autopull := rfl
  autopush := rfl

/-- R43: the fields a write of PINCTRL sets. -/
theorem PinCtrl.unpack_fields (x : Word) : PinFields (.unpack x) x where
  sidesetCount := (extractLsb'_toNat_div x 29 3).trans (by have := x.isLt; omega)
  setCount := extractLsb'_toNat_div x 26 3
  outCount := extractLsb'_toNat_div x 20 6
  inBase := extractLsb'_toNat_div x 15 5
  sidesetBase := extractLsb'_toNat_div x 10 5
  setBase := extractLsb'_toNat_div x 5 5
  outBase := (extractLsb'_toNat_div x 0 5).trans (by omega)

/-- R45: the fields of a packed EXECCTRL are those that were packed. -/
theorem ExecCtrl.unpack_pack (c : ExecCtrl) : ExecCtrl.unpack c.pack = c := by
  simp only [ExecCtrl.unpack, ExecCtrl.pack]
  congr 1
  case e_sideEn | e_sidePindir | e_statusSel =>
    simp (disch := omega) only [getLsbD_append_low, getLsbD_append_high, Nat.reduceSub, getLsbD_ofBool_zero,
      SideTarget.ofBit_toBit]
  all_goals
    refine extractLsb'_eq_of_bits fun k hk => ?_
    simp (disch := omega) only [getLsbD_append_low, getLsbD_append_high]
    exact congrArg _ (by omega)

/-- R45: the fields of a packed SHIFTCTRL are those that were packed. -/
theorem ShiftCtrl.unpack_pack (c : ShiftCtrl) : ShiftCtrl.unpack c.pack = c := by
  simp only [ShiftCtrl.unpack, ShiftCtrl.pack]
  congr 1
  case e_pullThresh | e_pushThresh =>
    refine extractLsb'_eq_of_bits fun k hk => ?_
    simp (disch := omega) only [getLsbD_append_low, getLsbD_append_high]
    exact congrArg _ (by omega)
  all_goals
    simp (disch := omega) only [getLsbD_append_low, getLsbD_append_high, Nat.reduceSub, getLsbD_ofBool_zero,
      ShiftDir.ofBit_toBit]

/-- R45: the fields of a packed PINCTRL are those that were packed. -/
theorem PinCtrl.unpack_pack (c : PinCtrl) : PinCtrl.unpack c.pack = c := by
  simp only [PinCtrl.unpack, PinCtrl.pack]
  congr 1
  all_goals
    refine extractLsb'_eq_of_bits fun k hk => ?_
    simp (disch := omega) only [getLsbD_append_low, getLsbD_append_high]
    exact congrArg _ (by omega)

/-- R45: a word of EXECCTRL reads back with its unused bits 0. -/
theorem ExecCtrl.pack_unpack (x : Word) : (ExecCtrl.unpack x).pack = x &&& 0x7F01FF9F#32 := by
  refine word_ext fun i hi => ?_
  simp only [ExecCtrl.pack, ExecCtrl.unpack, BitVec.getLsbD_and, SideTarget.toBit_ofBit]
  interval_cases i <;>
    simp (disch := omega) only [getLsbD_append_low, getLsbD_append_high, Nat.reduceSub, getLsbD_ofBool_zero,
      BitVec.getLsbD_extractLsb'] <;>
    simp

/-- R45: a word of SHIFTCTRL reads back with its unused bits 0. -/
theorem ShiftCtrl.pack_unpack (x : Word) : (ShiftCtrl.unpack x).pack = x &&& 0xFFFF0000#32 := by
  refine word_ext fun i hi => ?_
  simp only [ShiftCtrl.pack, ShiftCtrl.unpack, BitVec.getLsbD_and, ShiftDir.toBit_ofBit]
  interval_cases i <;>
    simp (disch := omega) only [getLsbD_append_low, getLsbD_append_high, Nat.reduceSub, getLsbD_ofBool_zero,
      BitVec.getLsbD_extractLsb'] <;>
    simp

/-- R45: a word of PINCTRL reads back whole. -/
theorem PinCtrl.pack_unpack (x : Word) : (PinCtrl.unpack x).pack = x := by
  refine word_ext fun i hi => ?_
  simp only [PinCtrl.pack, PinCtrl.unpack]
  interval_cases i <;>
    simp (disch := omega) only [getLsbD_append_low, getLsbD_append_high, Nat.reduceSub,
      BitVec.getLsbD_extractLsb'] <;>
    simp

/-- A word that a mask leaves as it is has no bit outside the mask. -/
theorem and_not_of_and_eq {w mask : Word} (h : w = w &&& mask) : w &&& ~~~mask = 0 := by
  rw [h, BitVec.and_assoc, BitVec.and_not_self]
  exact BitVec.and_zero

theorem ExecCtrl.pack_unused (c : ExecCtrl) : c.pack &&& ~~~0x7F01FF9F#32 = 0 :=
  and_not_of_and_eq (by rw [← ExecCtrl.pack_unpack, ExecCtrl.unpack_pack])

theorem ShiftCtrl.pack_unused (c : ShiftCtrl) : c.pack &&& ~~~0xFFFF0000#32 = 0 :=
  and_not_of_and_eq (by rw [← ShiftCtrl.pack_unpack, ShiftCtrl.unpack_pack])

theorem ExecCtrl.pack_fields (c : ExecCtrl) : ExecFields c c.pack := by
  simpa only [ExecCtrl.unpack_pack] using ExecCtrl.unpack_fields c.pack

theorem ShiftCtrl.pack_fields (c : ShiftCtrl) : ShiftFields c c.pack := by
  simpa only [ShiftCtrl.unpack_pack] using ShiftCtrl.unpack_fields c.pack

theorem PinCtrl.pack_fields (c : PinCtrl) : PinFields c c.pack := by
  simpa only [PinCtrl.unpack_pack] using PinCtrl.unpack_fields c.pack

/-- A write of SHIFTCTRL that was not refused has set its fields. -/
theorem SM.setShiftctrl_done {m m' : SM} {x : Word} (h : m.setShiftctrl x = (m', .done)) :
    m'.shiftctrl = .unpack x := by
  cases hj : (ShiftCtrl.unpack x).joinRx && (ShiftCtrl.unpack x).joinTx
  · rw [SM.setShiftctrl_accepted hj] at h
    injection h with h; subst h; rfl
  · rw [SM.setShiftctrl_refused hj] at h
    injection h with _ h; cases h

/-- A write of PINCTRL that was not refused has set its fields. -/
theorem SM.setPinctrl_done {m m' : SM} {x : Word} (h : m.setPinctrl x = (m', .done)) :
    m'.pinctrl = .unpack x := by
  by_cases hx : (PinCtrl.unpack x).illegal = []
  · rw [SM.setPinctrl_accepted hx] at h
    injection h with h; subst h; rfl
  · obtain ⟨f, v, e⟩ := SM.setPinctrl_refused (m := m) hx
    rw [e] at h
    injection h with _ h; cases h

/-- Settles O56: unpacking undoes packing, and packing after unpacking masks the unused bits. -/
theorem packedRegistersRoundTrip : Obligations.PackedRegistersRoundTrip := by
  intro m p x
  refine ⟨⟨_, rfl, m.execctrl.pack_fields, m.execctrl.pack_unused⟩,
    ⟨_, rfl, m.shiftctrl.pack_fields, m.shiftctrl.pack_unused⟩, ⟨_, rfl, m.pinctrl.pack_fields⟩,
    fun m' h => ?_, fun m' h => ?_, fun m' h => ?_⟩
  · injection h with h; subst h
    exact ⟨ExecCtrl.unpack_fields x, congrArg Reply.word (ExecCtrl.pack_unpack x)⟩
  · have hc := SM.setShiftctrl_done h
    simp only [SM.hostOp, hc]
    exact ⟨ShiftCtrl.unpack_fields x, congrArg Reply.word (ShiftCtrl.pack_unpack x)⟩
  · have hc := SM.setPinctrl_done h
    simp only [SM.hostOp, hc, PinCtrl.pack_unpack]
    exact ⟨PinCtrl.unpack_fields x, congrArg Reply.word BitVec.and_allOnes.symm⟩

/-! ### What the host operations answer -/

/-- R42: both join bits of a word of SHIFTCTRL, as a number. -/
theorem ShiftCtrl.unpack_joins (x : Word) :
    ((ShiftCtrl.unpack x).joinRx && (ShiftCtrl.unpack x).joinTx) = decide (3 ≤ x.toNat / 2 ^ 30) := by
  have hx := x.isLt
  simp only [ShiftCtrl.unpack, BitVec.getLsbD, Nat.testBit_eq_decide_div_mod_eq, ← Bool.decide_and, decide_eq_decide]
  omega

/-- R44: the legal words of PINCTRL, as numbers. -/
theorem PinCtrl.unpack_illegal_iff (x : Word) : (PinCtrl.unpack x).illegal = [] ↔
    x.toNat / 2 ^ 29 ≤ 5 ∧ x.toNat / 2 ^ 26 % 8 ≤ 5 ∧ x.toNat / 2 ^ 20 % 64 ≤ 31 := by
  have fields := PinCtrl.unpack_fields x
  rw [PinCtrl.illegal_eq_nil_iff, fields.sidesetCount, fields.setCount, fields.outCount]

/-- Settles O57: what the register checks refuse are the words with a count out of range or both join bits. -/
theorem registerWritesAreValidated : Obligations.RegisterWritesAreValidated := by
  intro m p x
  have joins := ShiftCtrl.unpack_joins x
  refine ⟨rfl, fun h => SM.setPinctrl_accepted ((PinCtrl.unpack_illegal_iff x).2 h),
    fun h => SM.setPinctrl_refused (mt (PinCtrl.unpack_illegal_iff x).1 h), fun h => ?_, fun h => ?_⟩
  · rw [decide_eq_true h] at joins
    exact ⟨_, _, SM.setShiftctrl_refused joins⟩
  · rw [decide_eq_false (Nat.not_le.2 h)] at joins
    rw [SM.hostOp, SM.setShiftctrl_accepted joins]
    refine ⟨fun ⟨hrx, htx⟩ => ?_, fun hne => ?_⟩
    · rw [SM.storeJoins, if_pos ⟨hrx.symm, htx.symm⟩]
    · rw [SM.storeJoins, if_neg fun ⟨hrx, htx⟩ => hne ⟨hrx.symm, htx.symm⟩]

/-- Settles O58, each operation by the lemma that says what it answers. -/
theorem hostOperationsOnOneSm : Obligations.HostOperationsOnOneSm :=
  fun _ _ _ w word =>
    ⟨rfl, rfl, rfl, SM.setPcOp_accepted, SM.setPcOp_refused, rfl, rfl, rfl, rfl,
      SM.insertInstruction_empty word, SM.insertInstruction_occupied word,
      SM.hostRxRead_nil, fun _ _ => SM.hostRxRead_cons, SM.hostTxWrite_room w, SM.hostTxWrite_full w⟩

/-- Settles O60: each event by what `applyEvent` answers, with the laws of the flags and of the window write. -/
theorem outsideAccessToFlagsPinsAndClockGate : Obligations.OutsideAccessToFlagsPinsAndClockGate := by
  intro s i v data base count n gate rest
  refine ⟨step_cons, fun h => ?_, fun h => ?_, step_cons, step_cons, step_cons, fun _ h => ?_, fun _ h => ?_,
    step_cons⟩
  · exact ⟨s.shared.irqSet i, ⟨rfl, s.shared.irqSet_spec i⟩, step_cons h⟩
  · exact ⟨s.shared.irqClear i, ⟨rfl, s.shared.irqClear_spec i⟩, step_cons h⟩
  · exact ⟨_, writeWindow_spec _ _ _ _, step_cons h⟩
  · exact ⟨_, writeWindow_spec _ _ _ _, step_cons h⟩

end Sys2Proof.Machine
end

section
/-! PROOFS. Memory, FIFOs, pins and flags (spec/20_memory.md): what an instruction may write of them, a word loaded and
fetched, words the host queues, a flag consumed once; and that every step answers. -/

namespace Sys2Proof.Machine

/-! ### Windows of pins -/

/-- Settles O9: the bits of a read and of a window write. -/
theorem pinWindows : Obligations.PinWindows := by
  intro v data pins base count _
  exact ⟨fun k hk => getLsbD_getPins pins base count k hk, writeWindow_spec _ _ _ _, rfl,
    writeWindow_spec _ _ _ _, rfl⟩

/-! ### What an instruction writes -/

/-- Settles O40: what a body can do to the FIFOs is all that an instruction does to them, because steps 6 to 8 of the
tick and a decode error leave FIFOs and shift registers alone. -/
theorem fifosChangeOnlyByPushAndPull : Obligations.FifosChangeOnlyByPushAndPull := by
  intro i s t h
  rcases exec_next h with ⟨row, lsb, -, rfl⟩ | ⟨v, r, hb, rfl⟩
  · rw [State.sm_putView_cur]
    exact ⟨.inl rfl, .inl rfl⟩
  · have effect := bodyOf_effect hb
    rw [State.sm_putView_cur, View.finish_sm]
    exact ⟨effect.rx, effect.tx⟩

/-- Settles O43: no body writes the configuration, the run control, the memory or the pin inputs, and the rest of the
machine is not in the view that an instruction works on. -/
theorem instructionsWriteNoConfiguration : Obligations.InstructionsWriteNoConfiguration := by
  intro i s t h
  obtain ⟨hparams, himem, hothers⟩ := exec_frame h
  rcases exec_next h with ⟨row, lsb, -, rfl⟩ | ⟨v, r, hb, rfl⟩
  · refine ⟨hothers, ?_⟩
    rw [State.sm_putView_cur]
    exact ⟨rfl, rfl, rfl, rfl, rfl, himem, rfl, hparams, rfl, rfl, rfl⟩
  · have frame := bodyOf_frame hb
    have hpinIn : (s.putView (v.finish i.df r)).shared.pinIn = s.shared.pinIn := by
      rw [State.putView_shared, View.finish_shared, View.sideSet_pinIn, frame.pinIn]
      rfl
    refine ⟨hothers, ?_⟩
    rw [State.sm_putView_cur, View.finish_sm]
    exact ⟨frame.execctrl, frame.shiftctrl, frame.pinctrl, frame.enabled, frame.clockEnabled, himem, hpinIn, hparams,
      rfl, rfl, rfl⟩

/-! ### Every step answers -/

/-- R150: an IN or an OUT moves 1 to 32 bits. -/
def BitCountInRange : Form → Prop
  | .input _ n => 1 ≤ n ∧ n ≤ 32
  | .output _ n => 1 ≤ n ∧ n ≤ 32
  | .jmp _ _ | .wait _ _ | .push _ _ | .pull _ _ | .mov _ _ _ | .irqSet _ | .irqWait _ | .irqClear _ _ | .set _ _
  | .reserved _ _ => True

/-- R126: the count field 0 stands for 32. -/
theorem assembleBitCount_range (b : BitVec 5) : 1 ≤ assembleBitCount b ∧ assembleBitCount b ≤ 32 := by
  revert b; decide

theorem decodeWait_bitCount (lsb : Byte) : BitCountInRange (decodeWait lsb) := by
  unfold decodeWait
  split
  case h_3 => dsimp only; split_ifs <;> trivial
  all_goals trivial

theorem decodeIn_bitCount (lsb : Byte) : BitCountInRange (decodeIn lsb) := by
  unfold decodeIn
  split
  case h_5 | h_6 => trivial
  all_goals exact assembleBitCount_range _

theorem decodeOut_bitCount (lsb : Byte) : BitCountInRange (decodeOut lsb) := by
  unfold decodeOut
  split <;> exact assembleBitCount_range _

theorem decodePushPull_bitCount (lsb : Byte) : BitCountInRange (decodePushPull lsb) := by
  unfold decodePushPull
  split_ifs <;> trivial

theorem decodeMov_bitCount (lsb : Byte) : BitCountInRange (decodeMov lsb) := by
  unfold decodeMov
  split <;> trivial

theorem decodeIrq_bitCount (lsb : Byte) : BitCountInRange (decodeIrq lsb) := by
  unfold decodeIrq
  dsimp only
  split_ifs <;> trivial

theorem decodeSet_bitCount (lsb : Byte) : BitCountInRange (decodeSet lsb) := by
  unfold decodeSet
  split <;> trivial

/-- R111, R126: no word decodes to an IN or OUT whose count the engine refuses. -/
theorem decodeForm_bitCount (opcode : BitVec 3) (lsb : Byte) : BitCountInRange (decodeForm opcode lsb) := by
  unfold decodeForm
  split
  · trivial
  · exact decodeWait_bitCount lsb
  · exact decodeIn_bitCount lsb
  · exact decodeOut_bitCount lsb
  · exact decodePushPull_bitCount lsb
  · exact decodeMov_bitCount lsb
  · exact decodeIrq_bitCount lsb
  · exact decodeSet_bitCount lsb

/-- A delivery answers when the injection slot is empty. -/
theorem View.outDeliver_answers {v : View} (hs : v.sm.pendingInstruction = none) (dst : OutDst) (data : Word) (n : Nat) :
    ∃ v', v.outDeliver dst data n = .ok v' := by
  cases dst
  case exec => exact ⟨_, View.inject_ok _ hs⟩
  all_goals exact ⟨_, rfl⟩

/-- R344: from an empty injection slot a body with a count in range meets no violation. -/
theorem bodyOf_answers {f : Form} {v : View} (hf : BitCountInRange f) (hs : v.sm.pendingInstruction = none) :
    ∃ v' r, bodyOf f v = .ok (v', r) := by
  cases f with
  | jmp cond address => cases cond <;> exact ⟨_, _, rfl⟩
  | wait polarity src => cases src <;> exact ⟨_, _, rfl⟩
  | input src n =>
    simp only [bodyOf, shiftIn, View.shiftIntoIsr_ok v _ hf]
    exact ⟨_, _, rfl⟩
  | output dst n =>
    obtain ⟨v', hd⟩ := View.outDeliver_answers
      (v := v.setOsr (shiftRest v.sm.shiftctrl.outShiftdir v.sm.osr n) (addCount v.sm.osrShiftCount n)) hs dst
      (shiftedOut v.sm.shiftctrl.outShiftdir v.sm.osr n) n
    simp only [bodyOf, shiftOut, View.shiftOutOfOsr_ok v hf, hd]
    exact ⟨_, _, rfl⟩
  | mov dst op src =>
    cases dst
    case exec =>
      simp only [bodyOf, move, movWrite, View.inject_ok _ hs]
      exact ⟨_, _, rfl⟩
    all_goals exact ⟨_, _, rfl⟩
  | set dst data => cases dst <;> exact ⟨_, _, rfl⟩
  | push | pull | irqSet | irqWait | irqClear | reserved => exact ⟨_, _, rfl⟩

/-- R344: from an empty injection slot an instruction with a count in range answers a next state. -/
theorem exec_answers {i : Instr} {s : State} (hi : BitCountInRange i.form)
    (hs : (s.sm s.cur).pendingInstruction = none) : ∃ t, exec i s = .next t := by
  rw [exec_eq_meaning]
  generalize i.form = f at hi ⊢
  cases f
  case reserved row lsb => exact ⟨_, rfl⟩
  case irqWait index => exact ⟨_, rfl⟩
  all_goals
    obtain ⟨v, r, hb⟩ := bodyOf_answers (v := s.view.setIrqWait none) hi hs
    exact ⟨s.putView (v.finish i.df r), by rw [meaningOf, retire, hb, settle_ok]⟩

/-- R292, R293: a tick answers: the fetch is in range, and the slot is empty when the word runs. -/
theorem tick_answers (s : State) : ∃ t, tick s = .next t := by
  rcases tick_cases s with ⟨-, e⟩ | ⟨-, -, e⟩ | ⟨-, e⟩
  · exact ⟨_, e⟩
  · exact ⟨_, e⟩
  · rw [e]
    refine exec_answers ?_ ?_
    · rw [form_decodeWord]
      exact decodeForm_bitCount _ _
    · rw [State.emptySlot_cur, State.emptySlot_sm_cur]

theorem applyEvent_answers (e : Event) (s : State) : ∃ t, applyEvent e s = .next t := by
  cases e
  case edge n =>
    obtain ⟨t, ht⟩ := tick_answers { s with cur := n }
    exact ⟨_, edge_of_tick ht⟩
  all_goals exact ⟨_, rfl⟩

/-- Settles O44: a tick answers, and every other transition does by its definition. -/
theorem stepAlwaysAnswers : Obligations.StepAlwaysAnswers := by
  intro s
  cases he : s.events with
  | nil => rw [step_nil he]; exact tick_answers s
  | cons e rest => rw [step_cons he]; exact applyEvent_answers e _

/-! ### A load and a fetch -/

/-- R72, R75: a fetch of an address just loaded reads the word. -/
theorem memoryGet_memorySet_same {m : Memory} (hm : m.wf) (a : Index) (w : InstrWord) :
    memoryGet (memorySet m a w) a.toNat = .ok w := by
  rw [memoryGet_eq _ a.isLt, readByte_memorySet hm, readByte_memorySet hm, if_pos rfl, if_neg (by omega), if_pos rfl,
    word_of_bytes]

/-- R71: a load leaves the word at every other address. -/
theorem memoryGet_memorySet_ne {m : Memory} (hm : m.wf) {a b : Index} (hab : b ≠ a) (w : InstrWord) :
    memoryGet (memorySet m a w) b.toNat = memoryGet m b.toNat := by
  have hne : b.toNat ≠ a.toNat := fun h => hab (BitVec.eq_of_toNat_eq h)
  have other : ∀ c, c / 2 = b.toNat → readByte (memorySet m a w) c = readByte m c := fun c hc => by
    rw [readByte_memorySet hm, if_neg (by omega), if_neg (by omega)]
  rw [memoryGet_eq _ b.isLt, memoryGet_eq _ b.isLt, other _ (by omega), other _ (by omega)]

/-- Settles O54: the loader's event writes the two bytes of the word and nothing else. -/
theorem loadThenFetch : Obligations.LoadThenFetch := by
  intro s addr a word rest hinv he
  obtain ⟨-, -, hm⟩ := hinv
  refine ⟨_, step_cons he, memoryGet_memorySet_same hm addr word, ?_, ?_,
    fun hne => memoryGet_memorySet_ne hm hne word, rfl⟩
  · exact (readByte_memorySet hm addr word _).trans (by rw [if_neg (by omega), if_pos rfl])
  · exact (readByte_memorySet hm addr word _).trans (if_pos rfl)

/-! ### Words the host queues -/

/-- R81, R323: a host write that finds room puts its word at the tail of the TX FIFO and changes no other SM and nothing
that the SMs share. -/
theorem step_hostTxWrite {s : State} {n : Fin 4} {w : Word} {rest : List Event}
    (he : s.events = .host n (.hostTxWrite w) :: rest)
    (hroom : (s.sm n).txFifo.length < capTx s.params (s.sm n).shiftctrl) :
    ∃ t, step s = .next t ∧ t.events = rest ∧ t.params = s.params ∧
      t.sm n = { s.sm n with txFifo := (s.sm n).txFifo ++ [w] } ∧
      (∀ k, k ≠ n → t.sm k = s.sm k) ∧ t.shared = s.shared := by
  refine ⟨_, step_cons he, rfl, rfl, ?_, fun k hk => s.sm_setSm_ne _ hk, rfl⟩
  rw [State.host, State.sm_with_reply, State.sm_setSm_self]
  exact congrArg Prod.fst (SM.hostTxWrite_room w hroom)

/-- Settles O59, by induction on the words: each write finds room and leaves room for those that follow. -/
theorem hostWritesQueueInOrder : Obligations.HostWritesQueueInOrder := by
  intro ws
  induction ws with
  | nil =>
    intro s n rest he _
    exact ⟨s, run_zero s, he, by rw [List.append_nil], fun _ _ => rfl, rfl⟩
  | cons w ws ih =>
    intro s n rest he hroom
    rw [List.length_cons] at hroom
    obtain ⟨t, hstep, hevents, hparams, hsm, hothers, hshared⟩ := step_hostTxWrite he (by omega)
    have hroom' : (t.sm n).txFifo.length + ws.length ≤ capTx t.params (t.sm n).shiftctrl := by
      simp only [hsm, hparams, List.length_append, List.length_singleton]
      omega
    obtain ⟨u, hrun, hevents', hsm', hothers', hshared'⟩ := ih t n rest hevents hroom'
    refine ⟨u, (run_succ hstep).trans hrun, hevents', ?_, fun k hk => (hothers' k hk).trans (hothers k hk),
      hshared'.trans hshared⟩
    rw [hsm', hsm, List.append_assoc]
    rfl

/-! ### Two waits on one flag -/

/-- R292 step 7, R296: a COMPLETE moves the PC to its successor; any other result leaves it where the body put it. -/
theorem Retired.pc {df : BitVec 5} {r : ResultState} {s t : State} {m : SM} {sh : Shared}
    (h : Retired df r s m sh t) : (t.sm s.cur).pc = if r = .complete then m.successor else m.pc := by
  rw [h.sm]; rfl

/-- The next transition is an edge of SM `n`, which fetches the instruction `i` from the memory. -/
structure State.EdgeFetches (s : State) (n : Fin 4) (i : Instr) (rest : List Event) : Prop where
  events : s.events = .edge n :: rest
  fetches : (s.sm n).Fetches
  slot : (s.sm n).pendingInstruction = none
  code : s.CodeAt (s.sm n) i

/-- Such an edge executes `i` on SM `n`. -/
theorem State.EdgeFetches.step_eq {s t : State} {n : Fin 4} {i : Instr} {rest : List Event}
    (h : s.EdgeFetches n i rest) (ht : exec i { s with events := rest, cur := n } = .next t) :
    step s = .next { t with cur := s.cur } := by
  refine step_edge h.events h.fetches ?_
  rw [State.word_of_code (s := { s with events := rest, cur := n }) h.slot h.code,
    State.emptySlot_of_none (s := { s with events := rest, cur := n }) h.slot, ht]

theorem exec_waitIrq {i : Instr} {polarity : Bool} {index : IrqIndex} (s : State)
    (hi : i.form = .wait polarity (.irq index)) : exec i s = retire i.df (waitForIrq polarity index) s := by
  rw [exec_eq_meaning, hi]; rfl

/-- R203: a wait for HIGH that finds its flag HIGH completes and consumes it. -/
theorem waitForIrq_high {v : View} {index : IrqIndex} (h : irqGet v.shared.irq (irqNum v.num index) = true) :
    waitForIrq true index v = .ok (v.irqClear (irqNum v.num index), .complete) := by
  simp only [waitForIrq, waitFor, h, beq_self_eq_true, if_true]

/-- R203: a wait for HIGH that finds its flag LOW stalls and changes nothing. -/
theorem waitForIrq_low {v : View} {index : IrqIndex} (h : irqGet v.shared.irq (irqNum v.num index) = false) :
    waitForIrq true index v = .ok (v, .stall) := by
  simp only [waitForIrq, waitFor, h]
  rfl

/-- R203: the edge of an SM whose WAIT 1 IRQ finds the flag HIGH moves its PC and makes the flag LOW; it changes no other
SM and no byte of memory. -/
theorem step_waitIrq_high {s : State} {n : Fin 4} {i : Instr} {index : IrqIndex} {rest : List Event}
    (h : s.EdgeFetches n i rest) (hi : i.form = .wait true (.irq index))
    (hflag : irqGet s.shared.irq (irqNum n index) = true) :
    ∃ t, step s = .next t ∧ t.events = rest ∧ (t.sm n).pc = (s.sm n).successor ∧ (∀ k, k ≠ n → t.sm k = s.sm k) ∧
      t.shared.imem = s.shared.imem ∧ irqGet t.shared.irq (irqNum n index) = false := by
  obtain ⟨t, ht, retired⟩ := retire_of_body (s := { s with events := rest, cur := n }) (df := i.df)
    (waitForIrq_high hflag) rfl rfl
  refine ⟨_, h.step_eq ((exec_waitIrq _ hi).trans ht), retired.events, ?_, retired.others, retired.imem, ?_⟩
  · exact retired.pc.trans (if_pos rfl)
  · rw [irqGet_eq, retired.irq]
    exact (Shared.irqClear_spec s.shared (irqNum n index) _ (irqNum n index).isLt).trans (if_pos rfl)

/-- R203, R297: the edge of an SM whose WAIT 1 IRQ finds the flag LOW leaves its PC, the flags and every other SM. -/
theorem step_waitIrq_low {s : State} {n : Fin 4} {i : Instr} {index : IrqIndex} {rest : List Event}
    (h : s.EdgeFetches n i rest) (hi : i.form = .wait true (.irq index))
    (hflag : irqGet s.shared.irq (irqNum n index) = false) :
    ∃ t, step s = .next t ∧ (t.sm n).pc = (s.sm n).pc ∧ (∀ k, k ≠ n → t.sm k = s.sm k) ∧
      t.shared.irq = s.shared.irq := by
  obtain ⟨t, ht, retired⟩ := retire_of_body (s := { s with events := rest, cur := n }) (df := i.df)
    (waitForIrq_low hflag) rfl rfl
  refine ⟨_, h.step_eq ((exec_waitIrq _ hi).trans ht), ?_, retired.others, retired.irq⟩
  exact retired.pc.trans (if_neg (by decide))

/-- Settles O52: the edge of `a` completes its wait and clears the flag; the edge of `b`, whose SM and code it left
alone, finds the flag LOW. -/
theorem waitConsumesTheFlagOnce : Obligations.WaitConsumesTheFlagOnce := by
  intro s a b i j indexA indexB rest hab he hfa hfb hpa hpb hca hcb hi hj hflag hhigh
  have hnum : irqNum a indexA = irqNum b indexB :=
    irqNum_of_flagNumber ((irqNum_toNat a indexA).trans hflag)
  rw [← irqNum_toNat] at hhigh ⊢
  obtain ⟨t, hstep, hevents, hpc, hothers, himem, hlow⟩ := step_waitIrq_high ⟨he, hfa, hpa, hca⟩ hi hhigh
  have hsm : t.sm b = s.sm b := hothers b hab.symm
  have hnext : t.EdgeFetches b j rest := by
    refine ⟨hevents, ?_, ?_, ?_⟩
    · rwa [hsm]
    · rwa [hsm]
    · rwa [hsm, State.CodeAt, himem]
  obtain ⟨u, hstep', hpc', hothers', hirq⟩ := step_waitIrq_low hnext hj (by rwa [← hnum])
  refine ⟨u, (run_succ hstep).trans ((run_succ hstep').trans (run_zero u)), ?_, ?_, ?_⟩
  · rw [hothers' a hab, hpc]
  · rw [hpc', hsm]
  · rw [← irqGet_eq, hirq, hlow]

end Sys2Proof.Machine
end

section
/-! PROOFS. The encoding (spec/30_encoding.md): the operand codes and the low byte of each class, decoded and encoded;
which words are reserved, and how many of each class are legal. -/

namespace Sys2Proof

/-! ### The fields of a low byte -/

/-- A field of a low byte as a number. -/
theorem lsbBits_eq_iff_div_mod {lsb : Byte} {lo len : Nat} {c : BitVec len} :
    lsbBits lsb lo len = c ↔ lsb.toNat / 2 ^ lo % 2 ^ len = c.toNat := by
  rw [lsbBits, ← BitVec.toNat_inj, BitVec.extractLsb'_toNat, Nat.shiftRight_eq_div_pow]

/-- A bit as a number. -/
theorem getLsbD_iff_div_mod {n : Nat} {b : BitVec n} {k : Nat} : b.getLsbD k = true ↔ b.toNat / 2 ^ k % 2 = 1 := by
  rw [← BitVec.testBit_toNat, Nat.testBit_eq_decide_div_mod_eq, decide_eq_true_iff]

/-- R116: a low byte is its 3-bit code and its five low bits. -/
theorem code_append_operand_iff {lsb : Byte} {code : BitVec 3} {operand : BitVec 5} :
    code ++ operand = lsb ↔ lsbBits lsb 5 3 = code ∧ lsbBits lsb 0 5 = operand := by
  constructor
  · rintro rfl
    exact ⟨BitVec.extractLsb'_append_eq_left, BitVec.extractLsb'_append_eq_right⟩
  · rintro ⟨rfl, rfl⟩
    exact (BitVec.extractLsb'_append_extractLsb'_eq_extractLsb' rfl).trans BitVec.extractLsb'_eq_self

/-- The three high bits of a low byte are those of its code. -/
theorem getLsbD_of_code (lsb : Byte) : lsb.getLsbD 7 = (lsbBits lsb 5 3).getLsbD 2 ∧
    lsb.getLsbD 6 = (lsbBits lsb 5 3).getLsbD 1 ∧ lsb.getLsbD 5 = (lsbBits lsb 5 3).getLsbD 0 := by
  simp only [lsbBits, BitVec.getLsbD_extractLsb']
  exact ⟨rfl, rfl, rfl⟩

/-- R118: the source of a WAIT is the low two bits of the code. -/
theorem waitSource_of_code (lsb : Byte) : lsbBits lsb 5 2 = (lsbBits lsb 5 3).extractLsb' 0 2 := by
  apply BitVec.eq_of_getLsbD_eq
  intro k hk
  simp only [lsbBits, BitVec.getLsbD_extractLsb', Nat.zero_add, hk, Nat.lt_succ_of_lt hk, decide_true, Bool.true_and]

/-- R118: a low byte is a polarity, a source and an index. -/
theorem wait_append_iff {lsb : Byte} {polarity : Bool} {source : BitVec 2} {index : BitVec 5} :
    BitVec.ofBool polarity ++ (source ++ index) = lsb ↔
      lsb.getLsbD 7 = polarity ∧ lsbBits lsb 5 2 = source ∧ lsbBits lsb 0 5 = index := by
  have code : lsbBits lsb 5 3 = BitVec.ofBool polarity ++ source ↔
      lsb.getLsbD 7 = polarity ∧ lsbBits lsb 5 2 = source := by
    obtain ⟨h7, -, -⟩ := getLsbD_of_code lsb
    rw [h7, waitSource_of_code]
    generalize lsbBits lsb 5 3 = code
    revert code polarity source; decide
  rw [← and_assoc, ← code]
  exact (Eq.congr_left BitVec.append_assoc).symm.trans code_append_operand_iff

/-- R123: a low byte is a destination, an operation and a source. -/
theorem mov_append_iff {lsb : Byte} {d : BitVec 3} {o : BitVec 2} {s : BitVec 3} :
    d ++ o ++ s = lsb ↔ lsbBits lsb 5 3 = d ∧ lsbBits lsb 3 2 = o ∧ lsbBits lsb 0 3 = s := by
  constructor
  · rintro rfl
    refine ⟨?_, ?_, BitVec.extractLsb'_append_eq_right⟩
    · exact (BitVec.extractLsb'_append_eq_of_le (by decide)).trans BitVec.extractLsb'_append_eq_left
    · exact (BitVec.extractLsb'_append_eq_of_le (by decide)).trans BitVec.extractLsb'_append_eq_right
  · rintro ⟨rfl, rfl, rfl⟩
    exact (congrArg (· ++ lsbBits lsb 0 3) (BitVec.extractLsb'_append_extractLsb'_eq_extractLsb' rfl)).trans
      ((BitVec.extractLsb'_append_extractLsb'_eq_extractLsb' rfl).trans BitVec.extractLsb'_eq_self)

/-- R121, R122, R124: a low byte is its three high bits and its five low bits. -/
theorem bits_append_iff {lsb : Byte} {b7 b6 b5 : Bool} {operand : BitVec 5} :
    BitVec.ofBool b7 ++ BitVec.ofBool b6 ++ BitVec.ofBool b5 ++ operand = lsb ↔
      (lsb.getLsbD 7 = b7 ∧ lsb.getLsbD 6 = b6 ∧ lsb.getLsbD 5 = b5) ∧ lsbBits lsb 0 5 = operand := by
  have code : lsbBits lsb 5 3 = BitVec.ofBool b7 ++ BitVec.ofBool b6 ++ BitVec.ofBool b5 ↔
      lsb.getLsbD 7 = b7 ∧ lsb.getLsbD 6 = b6 ∧ lsb.getLsbD 5 = b5 := by
    obtain ⟨h7, h6, h5⟩ := getLsbD_of_code lsb
    rw [h7, h6, h5]
    generalize lsbBits lsb 5 3 = code
    revert code b7 b6 b5; decide
  rw [← code]
  exact code_append_operand_iff

/-- R121, R122: the operand is 0 when its five bits are. -/
theorem operand_eq_zero_iff {lsb : Byte} : lsbBits lsb 0 5 = 0#5 ↔
    ¬ lsb.getLsbD 0 ∧ ¬ lsb.getLsbD 1 ∧ ¬ lsb.getLsbD 2 ∧ ¬ lsb.getLsbD 3 ∧ ¬ lsb.getLsbD 4 := by
  simp only [getLsbD_iff_div_mod, lsbBits_eq_iff_div_mod, BitVec.toNat_ofNat]
  omega

/-! ### The operand codes -/

theorem decodeCond_encodeCond (c : JmpCond) : decodeCond (encodeCond c) = c := by cases c <;> rfl

theorem encodeCond_decodeCond (code : BitVec 3) : encodeCond (decodeCond code) = code := by revert code; decide

theorem decodeMovDst_encodeMovDst (d : MovDst) : decodeMovDst (encodeMovDst d) = some d := by cases d <;> rfl

theorem decodeMovOp_encodeMovOp (o : MovOp) : decodeMovOp (encodeMovOp o) = some o := by cases o <;> rfl

theorem decodeMovSrc_encodeMovSrc (s : MovSrc) : decodeMovSrc (encodeMovSrc s) = some s := by cases s <;> rfl

theorem encodeMovDst_of_decode {code : BitVec 3} {d : MovDst} (h : decodeMovDst code = some d) :
    encodeMovDst d = code := by
  revert code; cases d <;> decide

theorem encodeMovOp_of_decode {code : BitVec 2} {o : MovOp} (h : decodeMovOp code = some o) :
    encodeMovOp o = code := by
  revert code; cases o <;> decide

theorem encodeMovSrc_of_decode {code : BitVec 3} {s : MovSrc} (h : decodeMovSrc code = some s) :
    encodeMovSrc s = code := by
  revert code; cases s <;> decide

/-- R116: code 3 is the only reserved MOV destination. -/
theorem decodeMovDst_eq_none {code : BitVec 3} : decodeMovDst code = none ↔ code = 3#3 := by revert code; decide

/-- R123: code 3 is the only reserved MOV operation. -/
theorem decodeMovOp_eq_none {code : BitVec 2} : decodeMovOp code = none ↔ code = 3#2 := by revert code; decide

/-- R116: code 4 is the only reserved MOV source. -/
theorem decodeMovSrc_eq_none {code : BitVec 3} : decodeMovSrc code = none ↔ code = 4#3 := by revert code; decide

/-- R126: the count field of an assembled count. -/
theorem bitCountField_assembleBitCount (field : BitVec 5) : bitCountField (assembleBitCount field) = field := by
  revert field; decide

/-- R126: the count assembled from the field of a count in range. -/
theorem assembleBitCount_bitCountField {n : Nat} (h : 1 ≤ n ∧ n ≤ 32) : assembleBitCount (bitCountField n) = n := by
  obtain ⟨hlo, hhi⟩ := h
  interval_cases n <;> rfl

theorem assembleIrqIndex_encodeIrqIndex (index : IrqIndex) : assembleIrqIndex (encodeIrqIndex index) = index := by
  cases index with
  | abs flag => revert flag; decide
  | rel offset => revert offset; decide

/-- R127: an encoded index passes the check. -/
theorem encodeIrqIndex_passes (index : IrqIndex) : (encodeIrqIndex index).getLsbD 3 = false ∧
    ((encodeIrqIndex index).getLsbD 4 && (encodeIrqIndex index).getLsbD 2) = false := by
  cases index with
  | abs flag => revert flag; decide
  | rel offset => revert offset; decide

/-- R127: an index that passes the check is encoded by its own bits. -/
theorem encodeIrqIndex_assembleIrqIndex {index : BitVec 5} (h3 : ¬ index.getLsbD 3 = true)
    (h42 : ¬ (index.getLsbD 4 && index.getLsbD 2) = true) : encodeIrqIndex (assembleIrqIndex index) = index := by
  revert index; decide

/-! ### The RESERVED rows -/

/-- R128: what makes the row select a low byte, in the fields of its class. -/
def ReservedRow.reason (lsb : Byte) : ReservedRow → Bool
  | .waitSource3 => lsbBits lsb 5 2 == 3
  | .waitIrqIndexBit3 => lsbBits lsb 5 2 == 2 && (lsbBits lsb 0 5).getLsbD 3
  | .waitIrqIndexBits4And2 => lsbBits lsb 5 2 == 2 && ((lsbBits lsb 0 5).getLsbD 4 && (lsbBits lsb 0 5).getLsbD 2)
  | .inSources4And5 => lsbBits lsb 5 3 == 4 || lsbBits lsb 5 3 == 5
  | .pushPullBit0 => lsb.getLsbD 0
  | .pushPullBit1 => lsb.getLsbD 1
  | .pushPullBit2 => lsb.getLsbD 2
  | .pushPullBit3 => lsb.getLsbD 3
  | .pushPullBit4 => lsb.getLsbD 4
  | .movDestination3 => lsbBits lsb 5 3 == 3
  | .movOp3 => lsbBits lsb 3 2 == 3
  | .movSource4 => lsbBits lsb 0 3 == 4
  | .irqBit7 => lsb.getLsbD 7
  | .irqIndexBit3 => (lsbBits lsb 0 5).getLsbD 3
  | .irqIndexBits4And2 => (lsbBits lsb 0 5).getLsbD 4 && (lsbBits lsb 0 5).getLsbD 2
  | .setDestination3 => lsbBits lsb 5 3 == 3
  | .setDestination5 => lsbBits lsb 5 3 == 5
  | .setDestinations6And7 => lsbBits lsb 5 3 == 6 || lsbBits lsb 5 3 == 7

/-- The mask and the match of each row of the table say what R128 says in fields. -/
theorem ReservedRow.selects_eq_reason (row : ReservedRow) (lsb : Byte) : row.selects lsb = row.reason lsb := by
  cases row <;> (revert lsb; decide)

/-- Log 10: a row claims a byte for its own reason when no earlier row of the class has one. -/
theorem ReservedRow.claims_iff (row : ReservedRow) (lsb : Byte) :
    row.claims lsb = true ↔ row.reason lsb = true ∧ ∀ e ∈ row.earlier, e.reason lsb = false := by
  simp only [ReservedRow.claims, ReservedRow.selects_eq_reason, Bool.and_eq_true, List.all_eq_true, Bool.not_eq_true']

/-- Log 10: the decoder reports a byte under the row that claims it. -/
theorem decodeForm_eq_reserved_iff (row : ReservedRow) (lsb : Byte) :
    decodeForm (reservedOpcode row) lsb = .reserved row lsb ↔ row.claims lsb = true := by
  rw [ReservedRow.claims_iff]
  cases row
  case waitSource3 | waitIrqIndexBit3 | waitIrqIndexBits4And2 =>
    change decodeWait lsb = _ ↔ _
    unfold decodeWait
    split
    case h_3 =>
      dsimp only
      split_ifs <;> simp [ReservedRow.reason, ReservedRow.earlier, *, -BitVec.getLsbD_eq_getElem]
    all_goals simp [ReservedRow.reason, ReservedRow.earlier, *]
  case inSources4And5 =>
    change decodeIn lsb = _ ↔ _
    unfold decodeIn
    split <;> simp [ReservedRow.reason, ReservedRow.earlier, *]
  case pushPullBit0 | pushPullBit1 | pushPullBit2 | pushPullBit3 | pushPullBit4 =>
    change decodePushPull lsb = _ ↔ _
    unfold decodePushPull
    split_ifs <;> simp [ReservedRow.reason, ReservedRow.earlier, *, -BitVec.getLsbD_eq_getElem]
  case movDestination3 | movOp3 | movSource4 =>
    change decodeMov lsb = _ ↔ _
    unfold decodeMov
    split <;> simp [ReservedRow.reason, ReservedRow.earlier, *, ← decodeMovDst_eq_none, ← decodeMovOp_eq_none,
      ← decodeMovSrc_eq_none]
  case irqBit7 | irqIndexBit3 | irqIndexBits4And2 =>
    change decodeIrq lsb = _ ↔ _
    unfold decodeIrq
    dsimp only
    split_ifs <;> simp [ReservedRow.reason, ReservedRow.earlier, *, -BitVec.getLsbD_eq_getElem]
  case setDestination3 | setDestination5 | setDestinations6And7 =>
    change decodeSet lsb = _ ↔ _
    unfold decodeSet
    split <;> simp [ReservedRow.reason, ReservedRow.earlier, *]

/-! ### Decoding after encoding -/

section
variable {lsb : Byte}

theorem decodeWait_of_encodeLsb {src : WaitSrc} {polarity : Bool} (h : encodeLsb (.wait polarity src) = lsb) :
    decodeWait lsb = .wait polarity src := by
  cases src with
  | gpio index =>
    obtain ⟨hp, hs, hi⟩ := wait_append_iff.mp h
    simp only [decodeWait, hp, hs, hi]
  | pin index =>
    obtain ⟨hp, hs, hi⟩ := wait_append_iff.mp h
    simp only [decodeWait, hp, hs, hi]
  | irq index =>
    obtain ⟨hp, hs, hi⟩ := wait_append_iff.mp h
    obtain ⟨h3, h42⟩ := encodeIrqIndex_passes index
    simp only [decodeWait, hp, hs, hi, h3, h42, assembleIrqIndex_encodeIrqIndex, Bool.false_eq_true, if_false]

theorem decodeIn_of_encodeLsb {src : InSrc} {n : Nat} (hn : 1 ≤ n ∧ n ≤ 32) (h : encodeLsb (.input src n) = lsb) :
    decodeIn lsb = .input src n := by
  obtain ⟨hc, ho⟩ := code_append_operand_iff.mp h
  simp only [decodeIn, hc, ho, assembleBitCount_bitCountField hn]
  cases src <;> rfl

theorem decodeOut_of_encodeLsb {dst : OutDst} {n : Nat} (hn : 1 ≤ n ∧ n ≤ 32) (h : encodeLsb (.output dst n) = lsb) :
    decodeOut lsb = .output dst n := by
  obtain ⟨hc, ho⟩ := code_append_operand_iff.mp h
  simp only [decodeOut, hc, ho, assembleBitCount_bitCountField hn]
  cases dst <;> rfl

theorem decodeMov_of_encodeLsb {dst : MovDst} {op : MovOp} {src : MovSrc} (h : encodeLsb (.mov dst op src) = lsb) :
    decodeMov lsb = .mov dst op src := by
  obtain ⟨hd, ho, hs⟩ := mov_append_iff.mp h
  simp only [decodeMov, hd, ho, hs, decodeMovDst_encodeMovDst, decodeMovOp_encodeMovOp, decodeMovSrc_encodeMovSrc]

theorem decodeSet_of_encodeLsb {dst : SetDst} {data : BitVec 5} (h : encodeLsb (.set dst data) = lsb) :
    decodeSet lsb = .set dst data := by
  obtain ⟨hc, ho⟩ := code_append_operand_iff.mp h
  simp only [decodeSet, hc, ho]
  cases dst <;> rfl

/-- R121, R122: bit 7 tells PULL from PUSH. -/
theorem decodePushPull_of_fields {b7 b6 b5 : Bool}
    (h : BitVec.ofBool b7 ++ BitVec.ofBool b6 ++ BitVec.ofBool b5 ++ 0#5 = lsb) :
    decodePushPull lsb = if b7 then .pull b6 b5 else .push b6 b5 := by
  obtain ⟨⟨h7, h6, h5⟩, ho⟩ := bits_append_iff.mp h
  obtain ⟨h0, h1, h2, h3, h4⟩ := operand_eq_zero_iff.mp ho
  simp only [decodePushPull, h7, h6, h5, if_neg h0, if_neg h1, if_neg h2, if_neg h3, if_neg h4]

/-- R124: bits 6 and 5 say what an IRQ with a legal index does. -/
theorem decodeIrq_of_fields {b6 b5 : Bool} {index : IrqIndex}
    (h : BitVec.ofBool false ++ BitVec.ofBool b6 ++ BitVec.ofBool b5 ++ encodeIrqIndex index = lsb) :
    decodeIrq lsb = if b6 then .irqClear b5 index else if b5 then .irqWait index else .irqSet index := by
  obtain ⟨⟨h7, h6, h5⟩, ho⟩ := bits_append_iff.mp h
  obtain ⟨h3, h42⟩ := encodeIrqIndex_passes index
  simp only [decodeIrq, h7, h6, h5, ho, h3, h42, assembleIrqIndex_encodeIrqIndex, Bool.false_eq_true, if_false]

end

/-- R111: a well-formed instruction's class and low byte decode to its form. -/
theorem decodeForm_encode {f : Form} (hf : f.wf = true) : decodeForm (encodeOpcode f) (encodeLsb f) = f := by
  cases f with
  | jmp cond address =>
    obtain ⟨hc, ho⟩ := code_append_operand_iff.mp (rfl : encodeCond cond ++ address = encodeLsb (.jmp cond address))
    exact congrArg₂ Form.jmp ((congrArg decodeCond hc).trans (decodeCond_encodeCond cond)) ho
  | wait polarity src => exact decodeWait_of_encodeLsb rfl
  | input src n => exact decodeIn_of_encodeLsb (of_decide_eq_true hf) rfl
  | output dst n => exact decodeOut_of_encodeLsb (of_decide_eq_true hf) rfl
  | push ifFull block => exact decodePushPull_of_fields (b7 := false) rfl
  | pull ifEmpty block => exact decodePushPull_of_fields (b7 := true) rfl
  | mov dst op src => exact decodeMov_of_encodeLsb rfl
  | irqSet index => exact decodeIrq_of_fields (b6 := false) (b5 := false) rfl
  | irqWait index => exact decodeIrq_of_fields (b6 := false) (b5 := true) rfl
  | irqClear wait index => exact decodeIrq_of_fields (b6 := true) (b5 := wait) rfl
  | set dst data => exact decodeSet_of_encodeLsb rfl
  | reserved row lsb => exact (decodeForm_eq_reserved_iff row lsb).mpr hf

/-- R116 to R128: no two rows of the table stand for one form. -/
theorem Instr.ofForm_df_form (i : Instr) : Instr.ofForm i.df i.form = i := by cases i <;> rfl

theorem decodeWord_encode {i : Instr} (hi : i.WellFormed) : decodeWord (encode i) = i := by
  rw [encode, decodeWord, word_df, word_opcode, word_lsb, decodeForm_encode hi, Instr.ofForm_df_form]

/-- R72: decoding the two bytes of a word decodes the word. -/
theorem decode_bytesOfWord (w : InstrWord) (rest : List Byte) :
    decode (bytesOfWord w ++ rest) = .ok (decodeWord w, rest) := by
  simp only [bytesOfWord, List.cons_append, List.nil_append, decode, wordOfBytes, word_of_bytes]

/-- Settles O2: the fields of the encoded word are the class, `df` and low byte of the instruction, and a class with its
low byte decodes to the form that they encode. -/
theorem decodeAfterEncode : Obligations.DecodeAfterEncode := by
  intro i rest hi
  rw [decode_bytesOfWord, decodeWord_encode hi]

/-! ### Encoding after decoding -/

/-- The form encodes to a word of the class `opcode` with the low byte `lsb`. -/
structure Form.EncodesTo (f : Form) (opcode : BitVec 3) (lsb : Byte) : Prop where
  opcode : encodeOpcode f = opcode
  lsb : encodeLsb f = lsb

section
variable {lsb : Byte}

theorem decodeWait_encodesTo : (decodeWait lsb).EncodesTo 1 lsb := by
  unfold decodeWait
  split
  next hs => exact ⟨rfl, wait_append_iff.mpr ⟨rfl, hs, rfl⟩⟩
  next hs => exact ⟨rfl, wait_append_iff.mpr ⟨rfl, hs, rfl⟩⟩
  next hs =>
    dsimp only
    split_ifs with h3 h42
    · exact ⟨rfl, rfl⟩
    · exact ⟨rfl, rfl⟩
    · exact ⟨rfl, wait_append_iff.mpr ⟨rfl, hs, (encodeIrqIndex_assembleIrqIndex h3 h42).symm⟩⟩
  next => exact ⟨rfl, rfl⟩

theorem decodeIn_encodesTo : (decodeIn lsb).EncodesTo 2 lsb := by
  unfold decodeIn
  split
  case h_5 | h_6 => exact ⟨rfl, rfl⟩
  all_goals
    next hc => exact ⟨rfl, code_append_operand_iff.mpr ⟨hc, (bitCountField_assembleBitCount _).symm⟩⟩

theorem decodeOut_encodesTo : (decodeOut lsb).EncodesTo 3 lsb := by
  unfold decodeOut
  split <;>
    next hc => exact ⟨rfl, code_append_operand_iff.mpr ⟨hc, (bitCountField_assembleBitCount _).symm⟩⟩

theorem decodePushPull_encodesTo : (decodePushPull lsb).EncodesTo 4 lsb := by
  unfold decodePushPull
  split_ifs with h0 h1 h2 h3 h4 h7
  case pos | pos | pos | pos | pos => exact ⟨rfl, rfl⟩
  all_goals have operand := operand_eq_zero_iff.mpr ⟨h0, h1, h2, h3, h4⟩
  · exact ⟨rfl, (bits_append_iff (b7 := true)).mpr ⟨⟨h7, rfl, rfl⟩, operand⟩⟩
  · exact ⟨rfl, (bits_append_iff (b7 := false)).mpr ⟨⟨eq_false_of_ne_true h7, rfl, rfl⟩, operand⟩⟩

theorem decodeMov_encodesTo : (decodeMov lsb).EncodesTo 5 lsb := by
  unfold decodeMov
  split
  next hd ho hs =>
    exact ⟨rfl, mov_append_iff.mpr
      ⟨(encodeMovDst_of_decode hd).symm, (encodeMovOp_of_decode ho).symm, (encodeMovSrc_of_decode hs).symm⟩⟩
  all_goals exact ⟨rfl, rfl⟩

theorem decodeIrq_encodesTo : (decodeIrq lsb).EncodesTo 6 lsb := by
  unfold decodeIrq
  dsimp only
  split_ifs with h7 h3 h42 h6 h5
  case pos | pos | pos => exact ⟨rfl, rfl⟩
  all_goals
    have operand := (encodeIrqIndex_assembleIrqIndex h3 h42).symm
    have bit7 := eq_false_of_ne_true h7
  · exact ⟨rfl, (bits_append_iff (b7 := false) (b6 := true)).mpr ⟨⟨bit7, h6, rfl⟩, operand⟩⟩
  · exact ⟨rfl, (bits_append_iff (b7 := false) (b6 := false) (b5 := true)).mpr
      ⟨⟨bit7, eq_false_of_ne_true h6, h5⟩, operand⟩⟩
  · exact ⟨rfl, (bits_append_iff (b7 := false) (b6 := false) (b5 := false)).mpr
      ⟨⟨bit7, eq_false_of_ne_true h6, eq_false_of_ne_true h5⟩, operand⟩⟩

theorem decodeSet_encodesTo : (decodeSet lsb).EncodesTo 7 lsb := by
  unfold decodeSet
  split
  case h_1 | h_2 | h_3 | h_5 => next hc => exact ⟨rfl, code_append_operand_iff.mpr ⟨hc, rfl⟩⟩
  all_goals exact ⟨rfl, rfl⟩

end

/-- R111: no bit of the class and of the low byte is dropped. -/
theorem decodeForm_encodesTo (opcode : BitVec 3) (lsb : Byte) : (decodeForm opcode lsb).EncodesTo opcode lsb := by
  unfold decodeForm
  split
  · exact ⟨rfl, code_append_operand_iff.mpr ⟨(encodeCond_decodeCond _).symm, rfl⟩⟩
  · exact decodeWait_encodesTo
  · exact decodeIn_encodesTo
  · exact decodeOut_encodesTo
  · exact decodePushPull_encodesTo
  · exact decodeMov_encodesTo
  · exact decodeIrq_encodesTo
  · exact decodeSet_encodesTo

/-- R126, log 10: a decoded count is in range, and a decoded RESERVED row claims its byte. -/
theorem decodeForm_wf (opcode : BitVec 3) (lsb : Byte) : (decodeForm opcode lsb).wf = true := by
  have hcount := Machine.decodeForm_bitCount opcode lsb
  obtain ⟨hopcode, hlsb⟩ := decodeForm_encodesTo opcode lsb
  cases h : decodeForm opcode lsb with
  | input | output => rw [h] at hcount; exact decide_eq_true hcount
  | reserved row b =>
    rw [h] at hopcode hlsb
    subst hopcode hlsb
    exact (decodeForm_eq_reserved_iff row _).mp h
  | jmp | wait | push | pull | mov | irqSet | irqWait | irqClear | set => rfl

theorem encode_decodeWord (w : InstrWord) : encode (decodeWord w) = w := by
  obtain ⟨hopcode, hlsb⟩ := decodeForm_encodesTo (w.extractLsb' 13 3) (w.extractLsb' 0 8)
  rw [encode, form_decodeWord, df_decodeWord, hopcode, hlsb, word_of_fields]

/-- Settles O3: a decoded form is well formed and encodes to the fields that it was decoded from. -/
theorem encodeAfterDecode : Obligations.EncodeAfterDecode := by
  intro w
  refine ⟨?_, encode_decodeWord w⟩
  rw [Instr.WellFormed, form_decodeWord]
  exact decodeForm_wf _ _

/-! ### Which words are reserved -/

/-- R127: the index fails the check. -/
def badIrqIndex (index : BitVec 5) : Bool := index.getLsbD 3 || index.getLsbD 4 && index.getLsbD 2

section
variable {lsb : Byte}

theorem isReserved_decodeWait : (decodeWait lsb).isReserved = true ↔
    lsbBits lsb 5 2 = 3#2 ∨ lsbBits lsb 5 2 = 2#2 ∧ badIrqIndex (lsbBits lsb 0 5) = true := by
  unfold decodeWait
  split
  case h_3 =>
    dsimp only
    split_ifs <;> simp [Form.isReserved, badIrqIndex, *, -BitVec.getLsbD_eq_getElem]
  all_goals simp [Form.isReserved, *]

theorem isReserved_decodeIn :
    (decodeIn lsb).isReserved = true ↔ lsbBits lsb 5 3 = 4#3 ∨ lsbBits lsb 5 3 = 5#3 := by
  unfold decodeIn
  split <;> simp [Form.isReserved, *]

theorem isReserved_decodeOut : (decodeOut lsb).isReserved = false := by
  unfold decodeOut
  split <;> rfl

theorem isReserved_decodePushPull : (decodePushPull lsb).isReserved = true ↔ ¬ lsbBits lsb 0 5 = 0#5 := by
  rw [operand_eq_zero_iff]
  unfold decodePushPull
  split_ifs <;> simp [Form.isReserved, *, -BitVec.getLsbD_eq_getElem]

theorem isReserved_decodeMov : (decodeMov lsb).isReserved = true ↔
    lsbBits lsb 5 3 = 3#3 ∨ lsbBits lsb 3 2 = 3#2 ∨ lsbBits lsb 0 3 = 4#3 := by
  rw [← decodeMovDst_eq_none, ← decodeMovOp_eq_none, ← decodeMovSrc_eq_none]
  unfold decodeMov
  split <;> simp [Form.isReserved, *]

theorem isReserved_decodeIrq :
    (decodeIrq lsb).isReserved = true ↔ lsb.getLsbD 7 = true ∨ badIrqIndex (lsbBits lsb 0 5) = true := by
  unfold decodeIrq
  dsimp only
  split_ifs <;> simp [Form.isReserved, badIrqIndex, *, -BitVec.getLsbD_eq_getElem]

theorem isReserved_decodeSet : (decodeSet lsb).isReserved = true ↔
    lsbBits lsb 5 3 = 3#3 ∨ lsbBits lsb 5 3 = 5#3 ∨ lsbBits lsb 5 3 = 6#3 ∨ lsbBits lsb 5 3 = 7#3 := by
  unfold decodeSet
  split <;> simp [Form.isReserved, *]

end

/-- R112: a word is legal by its class and its low byte alone. -/
theorem legalWord_of_fields (opcode : BitVec 3) (df : BitVec 5) (lsb : Byte) :
    legalWord (opcode ++ df ++ lsb) = !(decodeForm opcode lsb).isReserved := by
  rw [legalWord, form_decodeWord, word_opcode, word_lsb]

/-- R127: the index check as numbers. -/
theorem badIrqIndex_iff {lsb : Byte} : badIrqIndex (lsbBits lsb 0 5) = true ↔
    lsb.toNat / 8 % 2 = 1 ∨ lsb.toNat / 16 % 2 = 1 ∧ lsb.toNat / 4 % 2 = 1 := by
  have hindex : (lsbBits lsb 0 5).toNat = lsb.toNat % 32 := by
    rw [lsbBits, BitVec.extractLsb'_toNat]; rfl
  simp only [badIrqIndex, Bool.or_eq_true, Bool.and_eq_true, getLsbD_iff_div_mod, hindex]
  omega

/-- R110: the class of a word as a number. -/
theorem toNat_opcode (w : InstrWord) : (w.extractLsb' 13 3).toNat = w.toNat / 2 ^ 13 := by
  rw [BitVec.extractLsb'_toNat, Nat.shiftRight_eq_div_pow, Nat.mod_eq_of_lt (by omega)]

/-- R110: the low byte of a word as a number. -/
theorem toNat_lsb (w : InstrWord) : (w.extractLsb' 0 8).toNat = w.toNat % 2 ^ 8 := by
  rw [BitVec.extractLsb'_toNat, Nat.shiftRight_zero]

/-- Settles O4, class by class: the fields that make the low byte reserved, as numbers taken from the word. -/
theorem reservedWordsAreTheListedOnes : Obligations.ReservedWordsAreTheListedOnes := by
  intro w
  rw [legalWord, form_decodeWord, Bool.not_eq_false']
  dsimp only
  rw [← toNat_opcode]
  have hlsb := toNat_lsb w
  generalize w.extractLsb' 13 3 = opcode
  generalize w.extractLsb' 0 8 = lsb at hlsb ⊢
  unfold decodeForm
  split
  case h_1 => simp [Form.isReserved]
  case h_4 => simp [isReserved_decodeOut]
  all_goals
    simp only [isReserved_decodeWait, isReserved_decodeIn, isReserved_decodePushPull, isReserved_decodeMov,
      isReserved_decodeIrq, isReserved_decodeSet, badIrqIndex_iff, lsbBits_eq_iff_div_mod, getLsbD_iff_div_mod, hlsb,
      BitVec.reduceToNat, Nat.reduceEqDiff, OfNat.ofNat_ne_one, OfNat.one_ne_ofNat, false_and, true_and, false_or,
      or_false]
    omega

/-! ### The eight classes counted, and the example words -/

/-- How many low bytes of a class are legal. -/
def legalLowBytes (opcode : BitVec 3) : Nat :=
  ((List.range 256).filter fun lsb => !(decodeForm opcode (BitVec.ofNat 8 lsb)).isReserved).length

/-- R128: a class with no reserved encoding has 256 legal low bytes. -/
theorem legalLowBytes_eq_all {opcode : BitVec 3} (h : ∀ lsb, (decodeForm opcode lsb).isReserved = false) :
    legalLowBytes opcode = 256 := by
  simp [legalLowBytes, h]

/-- Settles O5: legality does not depend on `df`, JMP and OUT have no reserved encoding, and the low bytes of the other
classes are counted. -/
theorem legalWordsPerClass : Obligations.LegalWordsPerClass := by
  intro df
  simp only [legalWord_of_fields]
  have jmp : legalLowBytes 0b000 = 256 := legalLowBytes_eq_all fun _ => rfl
  have out : legalLowBytes 0b011 = 256 := legalLowBytes_eq_all fun _ => isReserved_decodeOut
  refine ⟨jmp, ?_, ?_, out, ?_, ?_, ?_, ?_⟩ <;> rfl

/-- Settles O1: each word is decoded. -/
theorem exampleWordsDecode : Obligations.ExampleWordsDecode := by
  unfold Obligations.ExampleWordsDecode
  decide

end Sys2Proof
end

section
/-! PROOFS. The primitives (spec/40_primitives.md): the IRQ flag number, bit-reverse and invert, the four shifts as
numbers, push and pull with their two instructions, and the windows in which an instruction drives pins. -/

namespace Sys2Proof.Machine

/-! ### The IRQ flag number -/

/-- Settles O6, by bit 4: a relative offset is the low two bits of the index, an absolute flag its low three. -/
theorem irqNumberOfLegalIndex : Obligations.IrqNumberOfLegalIndex := by
  intro num index _ _
  rw [irqNum_toNat, assembleIrqIndex]
  split
  · have offset : (index.extractLsb' 0 2).toNat = index.toNat % 4 := BitVec.extractLsb'_toNat 0 2 index
    rw [flagNumber, offset, Nat.add_mod_mod]
  · exact BitVec.extractLsb'_toNat 0 3 index

/-! ### Bit-reverse and invert -/

/-- Settles O7: reversing twice takes bit `k` to `31 − (31 − k)`. -/
theorem bitReverseAndInvert : Obligations.BitReverseAndInvert := by
  intro v
  refine ⟨fun k hk => getLsbD_bitReverse32 v hk, word_ext fun k hk => ?_, BitVec.toNat_not⟩
  rw [getLsbD_bitReverse32 _ hk, getLsbD_bitReverse32 v (by omega), Nat.sub_sub_self (by omega)]

/-! ### The shifts as numbers -/

section Shifts
variable {isr osr data : Word} {n : Nat}

/-- R152: the bits shifted up and the bits that enter at the low end do not overlap, so their union is their sum. -/
theorem toNat_shiftInto_left (hn : n ≤ 32) :
    (shiftInto .left isr data n).toNat = (isr.toNat * 2 ^ n + data.toNat % 2 ^ n) % 2 ^ 32 := by
  have low : data.toNat % 2 ^ n < 2 ^ n := Nat.mod_lt _ (Nat.two_pow_pos n)
  have fits : data.toNat % 2 ^ n < 2 ^ 32 := low.trans_le (Nat.pow_le_pow_right (by decide) hn)
  calc (shiftInto .left isr data n).toNat
      = isr.toNat <<< n % 2 ^ 32 ||| data.toNat % 2 ^ n := by
        rw [shiftInto, BitVec.toNat_or, BitVec.toNat_shiftLeft, and_mask_toNat data hn]
    _ = (isr.toNat <<< n ||| data.toNat % 2 ^ n) % 2 ^ 32 := by
        rw [Nat.or_mod_two_pow, Nat.mod_eq_of_lt fits]
    _ = (isr.toNat * 2 ^ n + data.toNat % 2 ^ n) % 2 ^ 32 := by
        rw [← Nat.shiftLeft_add_eq_or_of_lt low, Nat.shiftLeft_eq]

/-- R153: the bits shifted down and the bits that enter at the high end do not overlap, so their union is their sum. -/
theorem toNat_shiftInto_right (hn : n ≤ 32) :
    (shiftInto .right isr data n).toNat = isr.toNat / 2 ^ n + data.toNat % 2 ^ n * 2 ^ (32 - n) := by
  have split32 : 2 ^ n * 2 ^ (32 - n) = 2 ^ 32 := by rw [← pow_add, Nat.add_sub_cancel' hn]
  have rest : isr.toNat / 2 ^ n < 2 ^ (32 - n) := Nat.div_lt_of_lt_mul (by rw [split32]; exact isr.isLt)
  have fits : data.toNat % 2 ^ n * 2 ^ (32 - n) < 2 ^ 32 := by
    rw [← split32]
    exact Nat.mul_lt_mul_of_pos_right (Nat.mod_lt _ (Nat.two_pow_pos n)) (Nat.two_pow_pos _)
  calc (shiftInto .right isr data n).toNat
      = isr.toNat / 2 ^ n ||| data.toNat % 2 ^ n * 2 ^ (32 - n) := by
        rw [shiftInto, BitVec.toNat_or, BitVec.toNat_ushiftRight, BitVec.toNat_shiftLeft, and_mask_toNat data hn,
          Nat.shiftRight_eq_div_pow, Nat.shiftLeft_eq, Nat.mod_eq_of_lt fits]
    _ = isr.toNat / 2 ^ n + data.toNat % 2 ^ n * 2 ^ (32 - n) := by
        rw [Nat.or_comm, ← Nat.shiftLeft_eq, ← Nat.shiftLeft_add_eq_or_of_lt rest, Nat.add_comm]

/-- R154: the shift to the right drops the bits that the mask of the rule clears. -/
theorem shiftedOut_left (hn : n ≤ 32) : shiftedOut .left osr n = osr >>> (32 - n) := by
  refine word_ext fun k hk => ?_
  rw [getLsbD_shiftedOut _ _ hn hk, outBit, BitVec.getLsbD_ushiftRight]
  by_cases h : k < n
  · rw [decide_eq_true h, Bool.true_and]
  · rw [decide_eq_false h, Bool.false_and, BitVec.getLsbD_of_ge _ _ (by omega)]

theorem toNat_shiftedOut_left (hn : n ≤ 32) : (shiftedOut .left osr n).toNat = osr.toNat / 2 ^ (32 - n) := by
  rw [shiftedOut_left hn, BitVec.toNat_ushiftRight, Nat.shiftRight_eq_div_pow]

theorem toNat_shiftedOut_right (hn : n ≤ 32) : (shiftedOut .right osr n).toNat = osr.toNat % 2 ^ n :=
  and_mask_toNat osr hn

theorem toNat_shiftRest_left : (shiftRest .left osr n).toNat = osr.toNat * 2 ^ n % 2 ^ 32 := by
  rw [shiftRest, BitVec.toNat_shiftLeft, Nat.shiftLeft_eq]

theorem toNat_shiftRest_right : (shiftRest .right osr n).toNat = osr.toNat / 2 ^ n := by
  rw [shiftRest, BitVec.toNat_ushiftRight, Nat.shiftRight_eq_div_pow]

end Shifts

/-- Settles O8, by the direction of each shift. -/
theorem shiftsAsArithmetic : Obligations.ShiftsAsArithmetic := by
  intro v data n hlo hhi
  refine ⟨⟨_, v.shiftIntoIsr_ok data ⟨hlo, hhi⟩, fun left => ?_, fun right => ?_⟩,
    ⟨_, _, v.shiftOutOfOsr_ok ⟨hlo, hhi⟩, fun left => ?_, fun right => ?_⟩⟩
  · rw [left, toNat_shiftInto_left hhi]
  · rw [right, toNat_shiftInto_right hhi]
  · rw [left]
    exact ⟨toNat_shiftedOut_left hhi, toNat_shiftRest_left⟩
  · rw [right]
    exact ⟨toNat_shiftedOut_right hhi, toNat_shiftRest_right⟩

/-! ### Push and pull -/

/-- R158: a push in the terms of the statements. -/
theorem View.rxPush_eq (v : View) (ifFull block : Bool) :
    v.rxPush ifFull block =
      if v.sm.pushWanted ifFull = false then (false, v)
      else if v.sm.rxFifo.length = capRx v.params v.sm.shiftctrl then (block, v)
      else (false, { v with sm := v.sm.afterPush }) := by
  have idle_iff := v.sm.pushIdle_iff ifFull
  rcases v.rxPush_cases ifFull block with ⟨idle, h⟩ | ⟨asked, full, h⟩ | ⟨asked, room, h⟩
  · rw [h, if_pos (idle_iff.1 idle)]
  · rw [h, if_neg (mt idle_iff.2 asked), if_pos ((rxFull_iff _ _).1 full)]
  · rw [h, if_neg (mt idle_iff.2 asked), if_neg (mt (rxFull_iff _ _).2 room)]; rfl

/-- R160, R161: a pull in the terms of the statements. -/
theorem View.txPull_eq (v : View) (ifEmpty block : Bool) :
    v.txPull ifEmpty block =
      if v.sm.pullWanted ifEmpty = false then (false, v)
      else if v.sm.txFifo = [] then (block, if block then v else { v with sm := v.sm.afterPull })
      else (false, { v with sm := v.sm.afterPull }) := by
  have idle_iff := v.sm.pullIdle_iff ifEmpty
  rcases v.txPull_cases ifEmpty block with ⟨idle, h⟩ | ⟨asked, empty, h⟩ | ⟨asked, w, rest, head, h⟩
  · rw [h, if_pos (idle_iff.1 idle)]
  · rw [h, if_neg (mt idle_iff.2 asked), if_pos empty, SM.afterPull_nil empty]; rfl
  · rw [h, if_neg (mt idle_iff.2 asked), head, if_neg (List.cons_ne_nil w rest), SM.afterPull_cons head]; rfl

/-- Settles O10: a push and a pull, each by its conditions. -/
theorem pushAndPullPrimitives : Obligations.PushAndPullPrimitives :=
  fun v cond block => ⟨v.rxPush_eq cond block, v.txPull_eq cond block⟩

/-- R240: a full RX FIFO holds up only a PUSH that is asked for and blocks. -/
theorem pushBody_completes {v : View} {ifFull block : Bool}
    (h : v.sm.pushWanted ifFull = true → block = true → v.sm.rxFifo.length ≠ capRx v.params v.sm.shiftctrl) :
    pushBody ifFull block v =
      .ok ({ v with sm := if v.sm.pushWanted ifFull = true ∧ v.sm.rxFifo.length ≠ capRx v.params v.sm.shiftctrl
          then v.sm.afterPush else v.sm }, .complete) := by
  rw [pushBody, View.rxPush_eq]
  by_cases asked : v.sm.pushWanted ifFull = true
  · by_cases full : v.sm.rxFifo.length = capRx v.params v.sm.shiftctrl
    · have nonblocking : block = false := Bool.eq_false_iff.2 fun hb => h asked hb full
      simp [asked, full, nonblocking]
    · simp [asked, full]
  · simp [asked]

/-- R241, R161: an empty TX FIFO holds up only a PULL that is asked for and blocks. -/
theorem pullBody_completes {v : View} {ifEmpty block : Bool}
    (h : v.sm.pullWanted ifEmpty = true → block = true → v.sm.txFifo ≠ []) :
    pullBody ifEmpty block v =
      .ok ({ v with sm := if v.sm.pullWanted ifEmpty then v.sm.afterPull else v.sm }, .complete) := by
  rw [pullBody, View.txPull_eq]
  by_cases asked : v.sm.pullWanted ifEmpty = true
  · by_cases empty : v.sm.txFifo = []
    · have nonblocking : block = false := Bool.eq_false_iff.2 fun hb => h asked hb empty
      simp [asked, empty, nonblocking]
    · simp [asked, empty]
  · simp [asked]

theorem exec_push (df : BitVec 5) (ifFull block : Bool) (s : State) :
    exec (.push df ifFull block) s = retire df (pushBody ifFull block) s := rfl

theorem exec_pull (df : BitVec 5) (ifEmpty block : Bool) (s : State) :
    exec (.pull df ifEmpty block) s = retire df (pullBody ifEmpty block) s := rfl

/-- Settles O20: the empty IRQ latch of the view plays no part in whether the push completes. -/
theorem pushCompletes : Obligations.PushCompletes := by
  intro df ifFull block s m m' h
  rw [exec_push]
  exact retire_of_body (pushBody_completes (v := s.view.setIrqWait none) h) rfl rfl

/-- Settles O21: the empty IRQ latch of the view plays no part in whether the pull completes. -/
theorem pullCompletes : Obligations.PullCompletes := by
  intro df ifEmpty block s m m' h
  rw [exec_pull]
  exact retire_of_body (pullBody_completes (v := s.view.setIrqWait none) h) rfl rfl

/-! ### The windows of pins -/

/-- R292 step 6: a pin outside the side-set window keeps its latches in steps 6 to 8 of the tick. -/
theorem View.finish_latches (v : View) (df : BitVec 5) (r : ResultState) {p : Nat} (hp : p < 32)
    (hc : v.sm.pinctrl.sidesetCount.toNat ≤ 5)
    (hside : OutsideWindow v.sm.pinctrl.sidesetBase (sidePins v.sm) p) :
    (v.finish df r).shared.pinLevel.getLsbD p = v.shared.pinLevel.getLsbD p ∧
      (v.finish df r).shared.pinDir.getLsbD p = v.shared.pinDir.getLsbD p := by
  rw [View.finish_shared]
  exact (v.sideSet_spec df).outside hc hp hside

/-- The number of side-set pins is a matter of the configuration alone. -/
theorem sidePins_congr {m m' : SM} (he : m'.execctrl = m.execctrl) (hp : m'.pinctrl = m.pinctrl) :
    sidePins m' = sidePins m := by
  rw [sidePins, sidePins, he, hp]

/-- Settles O42: the body drives the OUT and the SET window only, the side-set its own, and a decode error no pin; the
body leaves the configuration that places the side-set window as it is. -/
theorem latchesChangeOnlyInWindows : Obligations.LatchesChangeOnlyInWindows := by
  intro i s t p h hp m outside hc hout hset hside
  rcases exec_next h with ⟨row, lsb, -, rfl⟩ | ⟨v, r, hb, rfl⟩
  · exact ⟨rfl, rfl⟩
  · have frame := bodyOf_frame hb
    have hpin : v.sm.pinctrl = m.pinctrl := frame.pinctrl
    have hpins : sidePins v.sm = sidePins m := sidePins_congr frame.execctrl frame.pinctrl
    obtain ⟨bodyLevel, bodyDir⟩ := bodyOf_latches hb p hp hout hset
    obtain ⟨sideLevel, sideDir⟩ :=
      v.finish_latches i.df r hp (by rwa [hpin]) (by rw [hpin, hpins]; exact hside)
    exact ⟨sideLevel.trans bodyLevel, sideDir.trans bodyDir⟩

end Sys2Proof.Machine
end

section
/-! PROOFS. JMP (spec/41_jmp.md): the test of each condition in the terms of the statements, and what a JMP leaves. -/

namespace Sys2Proof.Machine

/-! ### The tests of the conditions -/

theorem beq_eq_decide_toNat {n : Nat} (a b : BitVec n) : (a == b) = decide (a.toNat = b.toNat) :=
  decide_eq_decide.2 BitVec.toNat_inj.symm

theorem bne_eq_decide_toNat {n : Nat} (a b : BitVec n) : (a != b) = decide (a.toNat ≠ b.toNat) := by
  rw [bne, beq_eq_decide_toNat, decide_not]

/-- R157, R188: the OSR does not count as empty below the threshold. -/
theorem SM.not_osrEmpty_eq (m : SM) :
    (!m.osrEmpty) = decide (m.osrShiftCount < thresholdValue m.shiftctrl.pullThresh) := by
  rw [SM.osrEmpty, threshold_eq, ← decide_not, decide_eq_decide, Nat.not_le]

/-! ### What a JMP leaves -/

/-- R180: one view and one result for a jump taken and one not taken. -/
theorem jumpIf_eq (taken : Bool) (address : Index) (v : View) :
    jumpIf taken address v =
      .ok (v.setPc (if taken then address else v.sm.pc), if taken then .jump else .complete) := by
  cases taken <;> rfl

/-- R180: a JMP jumps or completes by the test that its body makes, from the SM as the condition left it. -/
theorem jumps_of_jumpBody {i : Instr} {cond : JmpCond} {address : Index} {s : State} {test taken : Bool} {m : SM}
    (hi : i.form = .jmp cond address)
    (hbody : jumpBody cond address (s.view.setIrqWait none) =
      jumpIf test address { s.view with sm := { m with irqWait := none } })
    (htest : test = taken) : Jumps i s taken m address := by
  subst htest
  rw [Jumps, exec_eq_meaning, hi]
  exact retire_of_body (hbody.trans (jumpIf_eq _ _ _)) rfl rfl

/-- Settles O11, condition by condition: the test of the body is the test of the rule, made on the SM before any
decrement. -/
theorem jmpCompletesOrJumps : Obligations.JmpCompletesOrJumps := by
  intro df address s m
  refine ⟨?always, ?notX, ?xDec, ?notY, ?yDec, ?xNeY, ?pin, ?notOsre⟩
  case always => exact jumps_of_jumpBody rfl rfl rfl
  case notX => exact jumps_of_jumpBody rfl rfl (beq_eq_decide_toNat m.x 0)
  case xDec => exact jumps_of_jumpBody rfl rfl (bne_eq_decide_toNat m.x 0)
  case notY => exact jumps_of_jumpBody rfl rfl (beq_eq_decide_toNat m.y 0)
  case yDec => exact jumps_of_jumpBody rfl rfl (bne_eq_decide_toNat m.y 0)
  case xNeY => exact jumps_of_jumpBody rfl rfl (bne_eq_decide_toNat m.x m.y)
  case pin => exact jumps_of_jumpBody rfl rfl (View.pinValues_view s none _)
  case notOsre => exact jumps_of_jumpBody rfl rfl m.not_osrEmpty_eq

end Sys2Proof.Machine
end

section
/-! PROOFS. WAIT (spec/42_wait.md): the sample of each source in the terms of the statements, and what a WAIT that
agrees or differs leaves. -/

namespace Sys2Proof.Machine

/-! ### The samples -/

/-- R201: the body reads the pin that the statements read. -/
theorem View.getBit_view (s : State) (l : Option (BitVec 3)) (index : Index) :
    (s.view.setIrqWait l).getBit index = s.pinRead index.toNat :=
  View.pinValues_view s l index.toNat

/-- R202: the 5-bit sum of IN_BASE and the index wraps from pin 31 to pin 0. -/
theorem View.getBit_view_add (s : State) (l : Option (BitVec 3)) (base index : Index) :
    (s.view.setIrqWait l).getBit (base + index) = s.pinRead ((base.toNat + index.toNat) % 32) := by
  rw [View.getBit_view, BitVec.toNat_add]

/-- R203: the body reads the flag that the statements name. -/
theorem irqGet_irqNum (irq : BitVec 8) (num : Fin 4) (index : IrqIndex) :
    irqGet irq (irqNum num index) = irq.getLsbD (flagNumber num index) := by
  rw [irqGet_eq, irqNum_toNat]

/-! ### The test of the sample -/

section Test
variable {polarity sample : Bool} {after : View → View} {v : View}

theorem waitFor_agrees (h : sample = polarity) : waitFor polarity sample after v = .ok (after v, .complete) := by
  rw [waitFor, if_pos (beq_iff_eq.2 h)]

theorem waitFor_differs (h : sample ≠ polarity) : waitFor polarity sample after v = .ok (v, .stall) := by
  rw [waitFor, if_neg (mt beq_iff_eq.1 h)]

end Test

/-- Flags that already hold the level are the flags with that level made. -/
theorem FlagMade.of_level {flags : BitVec 8} {n : Nat} {level : Bool} (h : flags.getLsbD n = level) :
    FlagMade flags flags n level := by
  intro k _
  split
  · next hk => rw [hk, h]
  · rfl

theorem OnlyFlagMade.imem {sh sh' : Shared} {n : Nat} {level : Bool} (h : OnlyFlagMade sh sh' n level) :
    sh'.imem = sh.imem := by
  obtain ⟨frame, -⟩ := h
  rw [frame]

theorem OnlyFlagMade.pinIn {sh sh' : Shared} {n : Nat} {level : Bool} (h : OnlyFlagMade sh sh' n level) :
    sh'.pinIn = sh.pinIn := by
  obtain ⟨frame, -⟩ := h
  rw [frame]

/-- R203: a satisfied wait on a flag leaves it LOW: a HIGH flag is consumed, a LOW one was LOW. -/
theorem waitForIrq_agrees {polarity : Bool} {index : IrqIndex} {v : View}
    (h : irqGet v.shared.irq (irqNum v.num index) = polarity) :
    ∃ sh, OnlyFlagMade v.shared sh (irqNum v.num index).toNat false ∧
      waitForIrq polarity index v = .ok ({ v with shared := sh }, .complete) := by
  cases polarity with
  | true => exact ⟨v.shared.irqClear _, ⟨rfl, Shared.irqClear_spec _ _⟩, waitForIrq_high h⟩
  | false => exact ⟨v.shared, ⟨rfl, FlagMade.of_level h⟩, waitFor_agrees h⟩

/-! ### What a WAIT leaves -/

theorem waitBody_gpio (polarity : Bool) (index : Index) (v : View) :
    waitBody polarity (.gpio index) v = waitFor polarity (v.getBit index) (fun v => v) v := rfl

theorem waitBody_pin (polarity : Bool) (index : Index) (v : View) :
    waitBody polarity (.pin index) v =
      waitFor polarity (v.getBit (v.sm.pinctrl.inBase + index)) (fun v => v) v := rfl

theorem waitBody_irq (polarity : Bool) (index : IrqIndex) (v : View) :
    waitBody polarity (.irq index) v = waitFor polarity (irqGet v.shared.irq (irqNum v.num index))
      (fun w => if polarity then w.irqClear (irqNum v.num index) else w) v := rfl

section Wait
variable {i : Instr} {polarity sample level : Bool} {src : WaitSrc} {s : State}

theorem exec_wait (hi : i.form = .wait polarity src) (s : State) :
    exec i s = retire i.df (waitBody polarity src) s := by
  rw [exec_eq_meaning, hi]; rfl

/-- R201, R202: a WAIT whose agreeing sample has no effect of its own completes. -/
theorem wait_completes (hi : i.form = .wait polarity src)
    (hbody : waitBody polarity src (s.view.setIrqWait none) =
      waitFor polarity sample (fun v => v) (s.view.setIrqWait none))
    (hsample : sample = level) (h : level = polarity) :
    ∃ t, exec i s = .next t ∧ Retired i.df .complete s { s.sm s.cur with irqWait := none } s.shared t := by
  rw [exec_wait hi]
  exact retire_of_body (hbody.trans (waitFor_agrees (hsample.trans h))) rfl rfl

/-- R203: a WAIT IRQ that finds its flag at the polarity completes and leaves the flag LOW. -/
theorem waitIrq_completes {index : IrqIndex} (hi : i.form = .wait polarity (.irq index))
    (h : s.shared.irq.getLsbD (flagNumber s.cur index) = polarity) :
    ∃ t sh, exec i s = .next t ∧ Retired i.df .complete s { s.sm s.cur with irqWait := none } sh t ∧
      OnlyFlagMade s.shared sh (flagNumber s.cur index) false := by
  obtain ⟨sh, made, hbody⟩ :=
    waitForIrq_agrees (v := s.view.setIrqWait none) ((irqGet_irqNum s.shared.irq s.cur index).trans h)
  obtain ⟨t, ht, retired⟩ := retire_of_body hbody made.imem made.pinIn
  rw [← irqNum_toNat]
  exact ⟨t, sh, (exec_wait hi s).trans ht, retired, made⟩

/-- R200: a WAIT whose sample differs stalls, whatever it would do on agreement. -/
theorem wait_stalls {after : View → View} (hi : i.form = .wait polarity src)
    (hbody : waitBody polarity src (s.view.setIrqWait none) =
      waitFor polarity sample after (s.view.setIrqWait none))
    (hsample : sample = level) (h : level ≠ polarity) :
    ∃ t, exec i s = .next t ∧ Retired i.df .stall s { s.sm s.cur with irqWait := none } s.shared t := by
  rw [exec_wait hi]
  exact retire_of_body (hbody.trans (waitFor_differs (hsample.trans_ne h))) rfl rfl

end Wait

/-- Settles O12, source by source: only a wait on an IRQ flag has an effect of its own. -/
theorem waitCompletesWhenSampleAgrees : Obligations.WaitCompletesWhenSampleAgrees := by
  intro df polarity s m m'
  refine ⟨fun index h => ?gpio, fun index h => ?pin, fun index h => ?irq, fun index h => ?irqRel⟩
  case gpio => exact wait_completes rfl (waitBody_gpio _ _ _) (View.getBit_view s none index) h
  case pin => exact wait_completes rfl (waitBody_pin _ _ _) (View.getBit_view_add s none m.pinctrl.inBase index) h
  case irq => exact waitIrq_completes rfl h
  case irqRel => exact waitIrq_completes rfl h

/-- Settles O13, source by source. -/
theorem waitStallsWhenSampleDiffers : Obligations.WaitStallsWhenSampleDiffers := by
  intro df polarity s m m'
  refine ⟨fun index h => ?gpio, fun index h => ?pin, fun index h => ?irq, fun index h => ?irqRel⟩
  case gpio => exact wait_stalls rfl (waitBody_gpio _ _ _) (View.getBit_view s none index) h
  case pin => exact wait_stalls rfl (waitBody_pin _ _ _) (View.getBit_view_add s none m.pinctrl.inBase index) h
  case irq => exact wait_stalls rfl (waitBody_irq _ _ _) (irqGet_irqNum s.shared.irq s.cur (.abs index)) h
  case irqRel => exact wait_stalls rfl (waitBody_irq _ _ _) (irqGet_irqNum s.shared.irq s.cur (.rel index)) h

end Sys2Proof.Machine
end

section
/-! PROOFS. IN (spec/43_in.md): the ISR after the shift bit by bit, and the autopush as a PUSH from the shifted ISR. -/

namespace Sys2Proof.Machine

/-! ### The shift -/

/-- R152, R153: a shift of at most 32 bits takes bits of the data below bit 32 only. -/
theorem isrBitAfter_congr (dir : ShiftDir) (isr : Word) {data data' : Nat → Bool} {n k : Nat} (hk : k < 32)
    (h : ∀ j < 32, data j = data' j) : isrBitAfter dir isr data n k = isrBitAfter dir isr data' n k := by
  cases dir with
  | left => rw [isrBitAfter, isrBitAfter, h k hk]
  | right => rw [isrBitAfter, isrBitAfter, h (k - (32 - n)) (by omega)]

section In
variable {i : Instr} {src : InSrc} {n : Nat} {s : State}

/-- R211 to R217: the low bits of the source enter the ISR. -/
theorem shiftInto_inValue_bits (dir : ShiftDir) (isr : Word) (src : InSrc) (s : State) (hhi : n ≤ 32) :
    BitsAre (shiftInto dir isr ((s.view.setIrqWait none).inValue src) n) (isrBitAfter dir isr (inBit s src) n) := by
  intro k hk
  rw [getLsbD_shiftInto dir isr _ hhi hk]
  exact isrBitAfter_congr dir isr hk fun j hj => View.inValue_bit s none src hj

/-! ### The autopush -/

/-- R211: after its shift an IN is a blocking PUSH asked for with `ifFull`. -/
theorem shiftIn_eq_pushBody (src : InSrc) (v : View) (hlo : 1 ≤ n) (hhi : n ≤ 32) :
    shiftIn src n v = pushBody true true (v.setIsr
      (shiftInto v.sm.shiftctrl.inShiftdir v.sm.isr (v.inValue src) n) (min (v.sm.isrShiftCount + n) 32)) := by
  rw [shiftIn, v.shiftIntoIsr_ok _ ⟨hlo, hhi⟩]
  rfl

/-- R158: a push that finds room whenever it is asked for is done exactly when it is asked for. -/
theorem pushBody_room {v : View} {ifFull block : Bool}
    (h : v.sm.pushWanted ifFull = true → v.sm.rxFifo.length ≠ capRx v.params v.sm.shiftctrl) :
    pushBody ifFull block v =
      .ok ({ v with sm := if v.sm.pushWanted ifFull then v.sm.afterPush else v.sm }, .complete) := by
  rw [pushBody_completes fun asked _ => h asked]
  simp only [and_iff_left_of_imp h]

/-- R158: a blocking push that is asked for waits on a full RX FIFO. -/
theorem pushBody_full {v : View} {ifFull : Bool} (asked : v.sm.pushWanted ifFull = true)
    (full : v.sm.rxFifo.length = capRx v.params v.sm.shiftctrl) : pushBody ifFull true v = .ok (v, .stall) := by
  rw [pushBody, View.rxPush_eq, if_neg ((Bool.not_eq_false _).mpr asked), if_pos full]
  rfl

/-! ### What an IN leaves -/

theorem exec_in (hi : i.form = .input src n) (s : State) : exec i s = retire i.df (shiftIn src n) s := by
  rw [exec_eq_meaning, hi]; rfl

end In

/-- Settles O14: the autopush finds room in the RX FIFO as the shift leaves it, which is as it was before. -/
theorem inCompletes : Obligations.InCompletes := by
  intro i src n s hi hlo hhi m
  refine ⟨_, shiftInto_inValue_bits m.shiftctrl.inShiftdir m.isr src s hhi, fun room => ?_⟩
  rw [exec_in hi]
  exact retire_of_body ((shiftIn_eq_pushBody src _ hlo hhi).trans (pushBody_room room)) rfl rfl

/-- Settles O15: the push waits on the SM that the shift left, so the shift stands. -/
theorem inStallsOnFullRxFifo : Obligations.InStallsOnFullRxFifo := by
  intro i src n s hi hlo hhi m
  refine ⟨_, shiftInto_inValue_bits m.shiftctrl.inShiftdir m.isr src s hhi, fun asked full => ?_⟩
  rw [exec_in hi]
  exact retire_of_body ((shiftIn_eq_pushBody src _ hlo hhi).trans (pushBody_full asked full)) rfl rfl

end Sys2Proof.Machine
end

section
/-! PROOFS. OUT (spec/44_out.md): the delivery to each destination, the autopull on the SM that the delivery left, and
one account of an OUT to any destination. -/

namespace Sys2Proof.Machine

/-! ### The delivery -/

/-- D8, D9: the low bits that OUT PC and OUT EXEC take, as the statements say them. -/
theorem extractLsb'_zero_eq_ofNat (data : Word) (len : Nat) :
    data.extractLsb' 0 len = BitVec.ofNat len data.toNat := rfl

/-- R227: the counter after a direct write, as the statements say it. -/
theorem countAfterWrite_eq (p : Params) (count onDevice : Nat) :
    countAfterWrite p count onDevice = if p.srCountPolicy = .keep then count else onDevice := by
  rw [countAfterWrite]
  cases p.srCountPolicy <;> rfl

/-- R222 to R229: everything the delivery of an OUT does. Only OUT EXEC asks for something: an empty injection slot. -/
theorem View.outDeliver_spec (v : View) (dst : OutDst) (data : Word) (n : Nat)
    (slot : dst = .exec → v.sm.pendingInstruction = none) :
    ∃ sh, OutPins v.sm dst data v.shared sh ∧
      v.outDeliver dst data n = .ok { v with sm := v.sm.outDelivered v.params dst data n, shared := sh } := by
  cases dst with
  | pins => exact ⟨_, ⟨rfl, writeWindow_spec _ _ _ _⟩, rfl⟩
  | pindirs => exact ⟨_, ⟨rfl, writeWindow_spec _ _ _ _⟩, rfl⟩
  | x => exact ⟨_, rfl, rfl⟩
  | y => exact ⟨_, rfl, rfl⟩
  | null => exact ⟨_, rfl, rfl⟩
  | pc => exact ⟨_, rfl, by rw [View.outDeliver, extractLsb'_zero_eq_ofNat]; rfl⟩
  | isr => exact ⟨_, rfl, by rw [View.outDeliver, countAfterWrite_eq]; rfl⟩
  | exec => exact ⟨_, rfl, by rw [View.outDeliver, extractLsb'_zero_eq_ofNat, View.inject_ok _ (slot rfl)]; rfl⟩

/-- R70, R74: a delivery stores nothing in memory. -/
theorem OutPins.imem {m : SM} {dst : OutDst} {data : Word} {sh sh' : Shared} (h : OutPins m dst data sh sh') :
    sh'.imem = sh.imem := by
  cases dst with
  | pins | pindirs => rw [h.1]
  | x | y | null | pc | isr | exec => rw [h]

theorem OutPins.pinIn {m : SM} {dst : OutDst} {data : Word} {sh sh' : Shared} (h : OutPins m dst data sh sh') :
    sh'.pinIn = sh.pinIn := by
  cases dst with
  | pins | pindirs => rw [h.1]
  | x | y | null | pc | isr | exec => rw [h]

/-! ### The autopull -/

/-- No destination of an OUT is the TX FIFO. -/
theorem SM.outDelivered_txFifo (p : Params) (m : SM) (dst : OutDst) (data : Word) (n : Nat) :
    (m.outDelivered p dst data n).txFifo = m.txFifo := by
  cases dst <;> rfl

/-- No destination of an OUT is the OSR's counter, so the delivery does not change whether a pull is due. -/
theorem SM.outDelivered_pullWanted (p : Params) (m : SM) (dst : OutDst) (data : Word) (n : Nat) (ifEmpty : Bool) :
    (m.outDelivered p dst data n).pullWanted ifEmpty = m.pullWanted ifEmpty := by
  cases dst <;> rfl

/-- R221: the autopull takes nothing from an empty TX FIFO. -/
theorem SM.afterAutopull_nil {m : SM} (h : m.txFifo = []) : m.afterAutopull = m := by
  simp [SM.afterAutopull, h]

/-- R221: only OUT PC and OUT EXEC have a result of their own. -/
theorem outResult_of_ne {dst : OutDst} (stall : Bool) (hpc : dst ≠ .pc) (hexec : dst ≠ .exec) :
    outResult dst stall = if stall then .stall else .complete := by
  cases dst with
  | pc => exact absurd rfl hpc
  | exec => exact absurd rfl hexec
  | pins | x | y | null | pindirs | isr => rfl

/-! ### What an OUT leaves -/

section Out
variable {i : Instr} {dst : OutDst} {n : Nat} {s : State}

/-- R221: the autopull, and the result by what it found, after a shift and a delivery that answered `w`. -/
theorem shiftOut_of_delivered {v w : View} (hlo : 1 ≤ n) (hhi : n ≤ 32)
    (delivered : View.outDeliver
      (v.setOsr (shiftRest v.sm.shiftctrl.outShiftdir v.sm.osr n) (addCount v.sm.osrShiftCount n)) dst
      (shiftedOut v.sm.shiftctrl.outShiftdir v.sm.osr n) n = .ok w) :
    shiftOut dst n v = .ok ({ w with sm := w.sm.afterAutopull },
      outResult dst (w.sm.pullWanted true && w.sm.txFifo.isEmpty)) := by
  rw [shiftOut, v.shiftOutOfOsr_ok ⟨hlo, hhi⟩]
  simp only [delivered, View.txPull_autopull, View.txPull_waits]

theorem exec_out (hi : i.form = .output dst n) (s : State) : exec i s = retire i.df (shiftOut dst n) s := by
  rw [exec_eq_meaning, hi]; rfl

/-- R221: what an OUT to any destination leaves. The empty IRQ latch plays no part in its body. -/
theorem exec_out_retires (hi : i.form = .output dst n) (hlo : 1 ≤ n) (hhi : n ≤ 32)
    (slot : dst = .exec → (s.sm s.cur).pendingInstruction = none) :
    let m := s.sm s.cur
    let count := min (m.osrShiftCount + n) 32
    ∃ t data osr sh, exec i s = .next t ∧
      BitsAre data (outBit m.shiftctrl.outShiftdir m.osr n) ∧
      BitsAre osr (osrBitAfter m.shiftctrl.outShiftdir m.osr n) ∧
      OutPins m dst data s.shared sh ∧
      Retired i.df (outResult dst ({ m with osrShiftCount := count }.pullWanted true && m.txFifo.isEmpty)) s
        ({ m with osr := osr, osrShiftCount := count, irqWait := none }.outDelivered s.params dst data n).afterAutopull
        sh t := by
  intro m count
  obtain ⟨sh, pins, delivered⟩ := View.outDeliver_spec
    ((s.view.setIrqWait none).setOsr (shiftRest m.shiftctrl.outShiftdir m.osr n) count) dst
    (shiftedOut m.shiftctrl.outShiftdir m.osr n) n slot
  obtain ⟨t, ht, retired⟩ :=
    retire_of_body (shiftOut_of_delivered (v := s.view.setIrqWait none) hlo hhi delivered) pins.imem pins.pinIn
  rw [SM.outDelivered_pullWanted, SM.outDelivered_txFifo] at retired
  exact ⟨t, _, _, sh, (exec_out hi s).trans ht, fun _ hk => getLsbD_shiftedOut _ _ hhi hk,
    fun _ hk => getLsbD_shiftRest _ _ hk, pins, retired⟩

end Out

/-- Settles O16: a pull that is due finds a word, so nothing makes the OUT wait. -/
theorem outCompletes : Obligations.OutCompletes := by
  intro i dst n s hi hlo hhi hpc hexec m count word
  have goes_on : ({ m with osrShiftCount := count }.pullWanted true && m.txFifo.isEmpty) = false := by
    simpa using word
  obtain ⟨t, data, osr, sh, ht, hdata, hosr, pins, retired⟩ := exec_out_retires hi hlo hhi fun h => absurd h hexec
  rw [goes_on, outResult_of_ne _ hpc hexec] at retired
  exact ⟨t, data, osr, sh, ht, hdata, hosr, pins, retired⟩

/-- Settles O17: the autopull that is due makes the OUT wait and takes nothing, so the SM is as the delivery left it. -/
theorem outStallsOnEmptyTxFifo : Obligations.OutStallsOnEmptyTxFifo := by
  intro i dst n s hi hlo hhi hpc hexec m count due empty
  have waits : ({ m with osrShiftCount := count }.pullWanted true && m.txFifo.isEmpty) = true := by
    rw [due, empty]; rfl
  obtain ⟨t, data, osr, sh, ht, hdata, hosr, pins, retired⟩ := exec_out_retires hi hlo hhi fun h => absurd h hexec
  rw [waits, outResult_of_ne _ hpc hexec, SM.afterAutopull_nil] at retired
  · exact ⟨t, data, osr, sh, ht, hdata, hosr, pins, retired⟩
  · exact (SM.outDelivered_txFifo _ _ _ _ _).trans empty

/-- Settles O18: OUT PC drives no pin, and its result does not depend on the pull. -/
theorem outPcJumps : Obligations.OutPcJumps := by
  intro df n s hlo hhi m
  obtain ⟨t, data, osr, sh, ht, hdata, hosr, rfl, retired⟩ :=
    exec_out_retires (i := .outPc df n) (s := s) rfl hlo hhi nofun
  exact ⟨t, data, osr, ht, hdata, hosr, retired⟩

/-- Settles O19: OUT EXEC drives no pin, and its result does not depend on the pull. -/
theorem outExecInjects : Obligations.OutExecInjects := by
  intro df n s hlo hhi slot m
  obtain ⟨t, data, osr, sh, ht, hdata, hosr, rfl, retired⟩ :=
    exec_out_retires (i := .outExec df n) (s := s) rfl hlo hhi fun _ => slot
  exact ⟨t, data, osr, ht, hdata, hosr, retired⟩

end Sys2Proof.Machine
end

section
/-! PROOFS. PUSH and PULL (spec/45_push_pull.md): a blocking transfer waits on a full RX FIFO, respectively an empty TX
FIFO, and its body leaves everything as it was. -/

namespace Sys2Proof.Machine

/-- R160: a blocking pull that is asked for waits on an empty TX FIFO. -/
theorem pullBody_empty {v : View} {ifEmpty : Bool} (asked : v.sm.pullWanted ifEmpty = true)
    (empty : v.sm.txFifo = []) : pullBody ifEmpty true v = .ok (v, .stall) := by
  rw [pullBody, View.txPull_eq, if_neg ((Bool.not_eq_false _).mpr asked), if_pos empty]
  rfl

/-- Settles O22, the PUSH and the PULL each by its FIFO: the empty IRQ latch of the view plays no part in the wait. -/
theorem blockingTransfersStall : Obligations.BlockingTransfersStall := by
  intro df cond s m m'
  refine ⟨fun asked full => ?push, fun asked empty => ?pull⟩
  case push =>
    rw [exec_push]
    exact retire_of_body (pushBody_full (v := s.view.setIrqWait none) asked full) rfl rfl
  case pull =>
    rw [exec_pull]
    exact retire_of_body (pullBody_empty (v := s.view.setIrqWait none) asked empty) rfl rfl

end Sys2Proof.Machine
end

section
/-! PROOFS. MOV (spec/46_mov.md): the value of a MOV bit by bit, the write to each destination in the terms of the
statements, and one account of a MOV by what its write answers. -/

namespace Sys2Proof.Machine

/-! ### The value -/

/-- R251: what a MOV of the current SM writes. The cleared IRQ latch is no source of a MOV. -/
def State.movResult (s : State) (op : MovOp) (src : MovSrc) : Word :=
  movApply op ((s.view.setIrqWait none).movValue src)

/-- R252 to R259. -/
theorem State.movResult_bits (s : State) (op : MovOp) (src : MovSrc) :
    BitsAre (s.movResult op src) (movResultBit s op src) :=
  fun _ hk => View.movApply_bit s none op src hk

/-! ### The write -/

section Write
variable (w : Word) (v : View)

/-- R262, D8. -/
theorem movWrite_pc : movWrite .pc w v = .ok (v.setPc (BitVec.ofNat 5 w.toNat), .jump) := by
  rw [movWrite, extractLsb'_zero_eq_ofNat]

/-- R263, D10. -/
theorem movWrite_isr : movWrite .isr w v =
    .ok (v.setIsr w (if v.params.srCountPolicy = .keep then v.sm.isrShiftCount else 0), .complete) := by
  rw [movWrite, countAfterWrite_eq]

/-- R263, D10. -/
theorem movWrite_osr : movWrite .osr w v =
    .ok (v.setOsr w (if v.params.srCountPolicy = .keep then v.sm.osrShiftCount else 0), .complete) := by
  rw [movWrite, countAfterWrite_eq]

/-- R264, D9: only MOV EXEC asks for something: an empty injection slot. -/
theorem movWrite_exec (slot : v.sm.pendingInstruction = none) : movWrite .exec w v =
    .ok ({ v with sm := { v.sm with pendingInstruction := some (BitVec.ofNat 16 w.toNat) } }, .stall) := by
  rw [movWrite, extractLsb'_zero_eq_ofNat, View.inject_ok _ slot]

end Write

/-! ### What a MOV leaves -/

/-- R251: a MOV leaves what its write answers; no write touches the memory or the pin inputs. -/
theorem exec_mov_retires {i : Instr} {dst : MovDst} {op : MovOp} {src : MovSrc} {s : State} {v : View}
    {r : ResultState} (hi : i.form = .mov dst op src)
    (hw : movWrite dst (s.movResult op src) (s.view.setIrqWait none) = .ok (v, r)) :
    ∃ t, exec i s = .next t ∧ Retired i.df r s v.sm v.shared t := by
  have frame := movWrite_frame hw
  rw [exec_eq_meaning, hi]
  exact retire_of_body hw frame.imem frame.pinIn

/-- Settles O23: the OUT window takes the bits of the result. -/
theorem movPinsCompletes : Obligations.MovPinsCompletes := by
  intro i op src s hi m
  obtain ⟨t, ht, retired⟩ := exec_mov_retires hi rfl
  exact ⟨t, _, ht, retired, rfl,
    (writeWindow_spec _ _ _ _).congr fun k hk _ => s.movResult_bits op src k hk⟩

/-- Settles O24: X and Y take the same value. -/
theorem movScratchCompletes : Obligations.MovScratchCompletes := by
  intro i op src s m
  refine ⟨_, s.movResult_bits op src, fun hi => ?x, fun hi => ?y⟩
  case x => exact exec_mov_retires hi rfl
  case y => exact exec_mov_retires hi rfl

/-- Settles O25: ISR and OSR take the same value, and each counter follows the policy. -/
theorem movShiftRegisterCompletes : Obligations.MovShiftRegisterCompletes := by
  intro i op src s m keep
  refine ⟨_, s.movResult_bits op src, fun hi => ?isr, fun hi => ?osr⟩
  case isr => exact exec_mov_retires hi (movWrite_isr _ _)
  case osr => exact exec_mov_retires hi (movWrite_osr _ _)

/-- Settles O26: no pin is driven, and the PC takes the low five bits of the result. -/
theorem movPcJumps : Obligations.MovPcJumps := by
  intro i op src s hi m
  obtain ⟨t, ht, retired⟩ := exec_mov_retires hi (movWrite_pc _ _)
  exact ⟨t, _, ht, s.movResult_bits op src, retired⟩

/-- Settles O27: the body finds the slot as the state holds it, because the cleared IRQ latch is no part of it. -/
theorem movExecInjects : Obligations.MovExecInjects := by
  intro i op src s hi slot m
  obtain ⟨t, ht, retired⟩ := exec_mov_retires hi (movWrite_exec _ _ slot)
  exact ⟨t, _, ht, s.movResult_bits op src, retired⟩

end Sys2Proof.Machine
end

section
/-! PROOFS. IRQ (spec/47_irq.md): SET and CLEAR make one flag and complete; an IRQ WAIT that the host answers. -/

namespace Sys2Proof.Machine

/-! ### SET and CLEAR -/

section Flag
variable {i : Instr} {index : IrqIndex} {s : State}

/-- An instruction whose body makes its flag in the shared part `sh`, touches nothing else and completes. -/
theorem exec_completes_of_onlyFlagMade {body : Body} {level : Bool} {sh : Shared} (hexec : exec i s = retire i.df body s)
    (hbody : body (s.view.setIrqWait none) = .ok ({ s.view.setIrqWait none with shared := sh }, .complete))
    (made : OnlyFlagMade s.shared sh (irqNum s.cur index).toNat level) :
    ∃ t sh, exec i s = .next t ∧ Retired i.df .complete s { s.sm s.cur with irqWait := none } sh t ∧
      OnlyFlagMade s.shared sh (flagNumber s.cur index) level := by
  obtain ⟨t, ht, retired⟩ := retire_of_body hbody made.imem made.pinIn
  exact ⟨t, sh, hexec.trans ht, retired, irqNum_toNat s.cur index ▸ made⟩

/-- R271. -/
theorem irqSet_completes (hi : i.form = .irqSet index) :
    ∃ t sh, exec i s = .next t ∧ Retired i.df .complete s { s.sm s.cur with irqWait := none } sh t ∧
      OnlyFlagMade s.shared sh (flagNumber s.cur index) true := by
  have hexec : exec i s = retire i.df (setFlag index) s := by rw [exec_eq_meaning, hi]; rfl
  exact exec_completes_of_onlyFlagMade hexec rfl ⟨rfl, s.shared.irqSet_spec _⟩

/-- R272: the wait bit plays no part. -/
theorem irqClear_completes {wait : Bool} (hi : i.form = .irqClear wait index) :
    ∃ t sh, exec i s = .next t ∧ Retired i.df .complete s { s.sm s.cur with irqWait := none } sh t ∧
      OnlyFlagMade s.shared sh (flagNumber s.cur index) false := by
  have hexec : exec i s = retire i.df (clearFlag wait index) s := by rw [exec_eq_meaning, hi]; rfl
  exact exec_completes_of_onlyFlagMade hexec rfl ⟨rfl, s.shared.irqClear_spec _⟩

end Flag

/-- Settles O28: plain and REL differ in the form's index only. -/
theorem irqSetAndClearComplete : Obligations.IrqSetAndClearComplete := by
  intro df wait s m' completes
  refine ⟨fun index => ?set, fun index => ?setRel, fun index => ?clear, fun index => ?clearRel⟩
  case set => exact irqSet_completes (i := .irqSet df index) rfl
  case setRel => exact irqSet_completes (i := .irqSetRel df index) rfl
  case clear => exact irqClear_completes (i := .irqClear df wait index) rfl
  case clearRel => exact irqClear_completes (i := .irqClearRel df wait index) rfl

/-! ### The handshake with the host -/

/-- R292 steps 7 and 8: a STALL leaves the SM as the body left it. -/
theorem Retired.sm_of_stall {df : BitVec 5} {s t : State} {m : SM} {sh : Shared} (h : Retired df .stall s m sh t) :
    t.sm s.cur = m := h.sm

/-- The latch is no part of what decides whether the next tick fetches. -/
theorem SM.Fetches.with_irqWait {m : SM} (h : m.Fetches) (latch : Option (BitVec 3)) :
    SM.Fetches { m with irqWait := latch } :=
  ⟨h.enabled, h.clockEnabled, h.fault, h.delay⟩

section Handshake
variable {s : State} {n : Fin 4} {i : Instr} {index : IrqIndex} {flag : BitVec 3} {rest : List Event}

/-- R273, D11: the edge of an SM at an IRQ WAIT that has not set its flag makes the flag HIGH and the latch hold it; the
SM is otherwise as before, and so is the memory. -/
theorem step_irqWait_first (h : s.EdgeFetches n i rest) (hi : i.form = .irqWait index)
    (hflag : flag.toNat = flagNumber n index) (hlatch : (s.sm n).irqWait = none) :
    ∃ t, step s = .next t ∧ t.events = rest ∧ t.sm n = { s.sm n with irqWait := some flag } ∧
      t.shared.imem = s.shared.imem ∧ t.shared.irq.getLsbD flag.toNat = true := by
  obtain ⟨-, first⟩ := irqWaitSetsOnceAndStalls i index { s with events := rest, cur := n } hi
  obtain ⟨t, sh, latch, ht, hl, ⟨-, made⟩, retired⟩ := first fun _ hl => nomatch hlatch.symm.trans hl
  obtain rfl : latch = flag := BitVec.eq_of_toNat_eq (hl.trans hflag.symm)
  refine ⟨_, h.step_eq ht, retired.events, retired.sm_of_stall, retired.imem, ?_⟩
  rw [retired.irq]
  exact (made _ latch.isLt).trans (if_pos hl)

/-- R324: the host's clear makes the flag LOW and leaves the SMs and the memory. -/
theorem step_host_irqClear (he : s.events = .irqClear flag :: rest) :
    ∃ t, step s = .next t ∧ t.events = rest ∧ (∀ k, t.sm k = s.sm k) ∧
      t.shared.imem = s.shared.imem ∧ t.shared.irq.getLsbD flag.toNat = false :=
  ⟨_, step_cons he, rfl, fun _ => rfl, rfl,
    (s.shared.irqClear_spec flag _ flag.isLt).trans (if_pos rfl)⟩

/-- R273, D11: the edge of an SM at an IRQ WAIT whose latched flag is LOW moves its PC and empties the latch; the flags
stay. -/
theorem step_irqWait_low (h : s.EdgeFetches n i rest) (hi : i.form = .irqWait index)
    (hflag : flag.toNat = flagNumber n index) (hlatch : (s.sm n).irqWait = some flag)
    (hlow : s.shared.irq.getLsbD flag.toNat = false) :
    ∃ t, step s = .next t ∧ t.events = rest ∧ (t.sm n).pc = (s.sm n).successor ∧ (t.sm n).irqWait = none ∧
      t.shared.irq = s.shared.irq := by
  obtain ⟨t, ht, retired⟩ :=
    irqWaitCompletesWhenFlagLow i index flag { s with events := rest, cur := n } hi hlatch hflag hlow
  exact ⟨_, h.step_eq ht, retired.events, retired.pc, congrArg SM.irqWait retired.sm, retired.irq⟩

end Handshake

/-- Settles O51, step by step: the first edge changes the latch of the SM alone, so that after the host's clear the second
edge fetches the same IRQ WAIT, with its latched flag LOW. -/
theorem irqWaitHandshakeWithHost : Obligations.IrqWaitHandshakeWithHost := by
  intro s n i index flag rest he hf hslot hlatch hcode hi hflag
  obtain ⟨t1, hstep1, he1, hsm1, himem1, hhigh⟩ := step_irqWait_first ⟨he, hf, hslot, hcode⟩ hi hflag hlatch
  obtain ⟨t2, hstep2, he2, hsm2, himem2, hlow⟩ := step_host_irqClear he1
  have hsm : t2.sm n = { s.sm n with irqWait := some flag } := (hsm2 n).trans hsm1
  have again : t2.EdgeFetches n i rest := by
    refine ⟨he2, ?_, ?_, ?_⟩
    · rw [hsm]; exact hf.with_irqWait _
    · rw [hsm]; exact hslot
    · rw [hsm, State.CodeAt, himem2, himem1]; exact hcode
  obtain ⟨t3, hstep3, he3, hpc, hempty, hirq⟩ := step_irqWait_low again hi hflag (by rw [hsm]) hlow
  refine ⟨t1, t3, (run_succ hstep1).trans (run_zero t1), hhigh, by rw [hsm1], by rw [hsm1], ?_, by rw [hirq, hlow], ?_,
    hempty, he3⟩
  · exact (run_succ hstep1).trans ((run_succ hstep2).trans ((run_succ hstep3).trans (run_zero t3)))
  · rw [hpc, hsm]; rfl

end Sys2Proof.Machine
end

section
/-! PROOFS. SET (spec/48_set.md): the windows take the bits of the immediate, X and Y its zero extension. -/

namespace Sys2Proof.Machine

/-- A window write of a 5-bit immediate takes the bits of the immediate. -/
theorem writeWindow_immediate (latch : Word) (data : BitVec 5) (base : Index) (count : Nat) :
    WindowWritten latch (writeWindow latch (data.setWidth 32) base count) data.getLsbD base.toNat count :=
  (writeWindow_spec _ _ _ _).congr fun _ hk _ => getLsbD_immediate data hk

/-- R282, R283, D20: the zero extension of an immediate, as the statements say it. -/
theorem setWidth_immediate (data : BitVec 5) : data.setWidth 32 = BitVec.ofNat 32 data.toNat :=
  BitVec.eq_of_toNat_eq (by simp)

/-- R280 to R284: everything the write of a SET does to the SM. -/
def SM.afterSet (m : SM) (dst : SetDst) (data : BitVec 5) : SM :=
  match dst with
  | .x => { m with x := BitVec.ofNat 32 data.toNat }
  | .y => { m with y := BitVec.ofNat 32 data.toNat }
  | .pins | .pindirs => m

/-- R280 to R284: everything the write of a SET does. -/
theorem setWrite_spec (dst : SetDst) (data : BitVec 5) (v : View) :
    ∃ sh, SetPinsWritten v.sm dst data v.shared sh ∧
      setWrite dst data v = .ok ({ v with sm := v.sm.afterSet dst data, shared := sh }, .complete) := by
  cases dst with
  | pins => exact ⟨_, ⟨rfl, writeWindow_immediate _ _ _ _⟩, rfl⟩
  | pindirs => exact ⟨_, ⟨rfl, writeWindow_immediate _ _ _ _⟩, rfl⟩
  | x => exact ⟨_, rfl, by rw [setWrite, setWidth_immediate]; rfl⟩
  | y => exact ⟨_, rfl, by rw [setWrite, setWidth_immediate]; rfl⟩

/-- R70, R74: a SET stores nothing in memory and drives no input. -/
theorem SetPinsWritten.frame {m : SM} {dst : SetDst} {data : BitVec 5} {sh sh' : Shared}
    (h : SetPinsWritten m dst data sh sh') : sh'.imem = sh.imem ∧ sh'.pinIn = sh.pinIn := by
  cases dst with
  | pins | pindirs =>
    obtain ⟨hsh, -⟩ := h
    rw [hsh]
    exact ⟨rfl, rfl⟩
  | x | y =>
    rw [SetPinsWritten] at h
    rw [h]
    exact ⟨rfl, rfl⟩

/-- R280: what a SET to any destination leaves. -/
theorem exec_set_retires {i : Instr} {dst : SetDst} {data : BitVec 5} (hi : i.form = .set dst data) (s : State) :
    ∃ t sh, exec i s = .next t ∧ SetPinsWritten (s.sm s.cur) dst data s.shared sh ∧
      Retired i.df .complete s ({ s.sm s.cur with irqWait := none }.afterSet dst data) sh t := by
  obtain ⟨sh, pins, hbody⟩ := setWrite_spec dst data (s.view.setIrqWait none)
  obtain ⟨himem, hpinIn⟩ := pins.frame
  have hexec : exec i s = retire i.df (setWrite dst data) s := by rw [exec_eq_meaning, hi]; rfl
  obtain ⟨t, ht, retired⟩ := retire_of_body hbody himem hpinIn
  exact ⟨t, sh, hexec.trans ht, pins, retired⟩

/-- Settles O31, destination by destination: X and Y drive no pin. -/
theorem setCompletes : Obligations.SetCompletes := by
  intro df data s m
  refine ⟨?pins, ?x, ?y, ?pindirs⟩
  case pins => exact exec_set_retires (i := .setPins df data) rfl s
  case x =>
    obtain ⟨t, sh, ht, rfl, retired⟩ := exec_set_retires (i := .setX df data) rfl s
    exact ⟨t, ht, retired⟩
  case y =>
    obtain ⟨t, sh, ht, rfl, retired⟩ := exec_set_retires (i := .setY df data) rfl s
    exact ⟨t, ht, retired⟩
  case pindirs => exact exec_set_retires (i := .setPindirs df data) rfl s

end Sys2Proof.Machine
end

section
/-! PROOFS. The tick (spec/49_engine.md): a tick as a function of its view, runs of ticks, the injection slot, the PC, a
stalled instruction, the block tick and the granular setters. -/

namespace Sys2Proof.Machine

/-! ### A tick depends on its view and writes its view -/

theorem State.putView_view (s : State) : s.putView s.view = s := by
  rw [State.putView, State.view_sm, State.setSm_same]; rfl

/-- The view of a tick is what two states that agree for one SM have in common. -/
theorem SameForSm.view_eq {s s' : State} (h : SameForSm s.cur s s') (hcur : s'.cur = s.cur) : s.view = s'.view := by
  rw [State.view, State.view, hcur, h.sm, h.shared, h.params]

/-- States that agree for their current SM still do after one view is written back into both. -/
theorem SameForSm.putView {s s' : State} (h : SameForSm s.cur s s') (hcur : s'.cur = s.cur) (v : View) :
    SameForSm s.cur (s.putView v) (s'.putView v) where
  sm := by rw [State.sm_putView_cur, ← hcur, State.sm_putView_cur]
  shared := rfl
  params := h.params

/-- R293: the word of a tick is a matter of its view. -/
theorem State.word_congr {s s' : State} (h : s.view = s'.view) : s.word = s'.word := by
  have hsm : s.sm s.cur = s'.sm s'.cur := congrArg View.sm h
  have hshared : s.shared = s'.shared := congrArg View.shared h
  rw [State.word, State.word, hsm, hshared]

theorem State.emptySlot_view (s : State) :
    s.emptySlot.view = { s.view with sm := { s.sm s.cur with pendingInstruction := none } } := by
  rw [State.view, State.emptySlot_cur, State.emptySlot_sm_cur]; rfl

theorem State.setSm_setSm (s : State) (n : Fin 4) (m m' : SM) : (s.setSm n m).setSm n m' = s.setSm n m' := by
  refine State.ext_sm rfl (fun k => ?_) rfl rfl rfl rfl
  by_cases hk : k = n
  · rw [hk, State.sm_setSm_self, State.sm_setSm_self]
  · rw [State.sm_setSm_ne _ _ hk, State.sm_setSm_ne _ _ hk, State.sm_setSm_ne _ _ hk]

theorem State.putView_setCurSm (s : State) (m : SM) (v : View) : (s.setCurSm m).putView v = s.putView v := by
  simp only [State.putView, State.setCurSm, State.setSm_cur, State.setSm_setSm]

/-- R290: what a tick does, it does to the view of its SM, and two states with one view do the same. -/
theorem tick_local {s s' t : State} (hview : s.view = s'.view) (h : tick s = .next t) :
    ∃ v, t = s.putView v ∧ tick s' = .next (s'.putView v) := by
  have hsm : s.sm s.cur = s'.sm s'.cur := congrArg View.sm hview
  rcases tick_cases s with ⟨gated, e⟩ | ⟨running, delay, e⟩ | ⟨fetches, e⟩ <;> rw [e] at h
  · obtain rfl : s = t := by injection h
    refine ⟨s.view, s.putView_view.symm, ?_⟩
    rw [hview, State.putView_view, tick_gated (hsm ▸ gated)]
  · injection h with h
    refine ⟨{ s.view with sm := { s.sm s.cur with pendingDelay := (s.sm s.cur).pendingDelay - 1 } }, h.symm, ?_⟩
    rw [tick_delay (hsm ▸ running) (hsm ▸ delay), hview, hsm]
    rfl
  · have hempty : s.emptySlot.view = s'.emptySlot.view := by
      rw [State.emptySlot_view, State.emptySlot_view, hview, hsm]
    obtain ⟨v, ht, he⟩ := exec_local hempty h
    refine ⟨v, ht.trans (s.putView_setCurSm _ v), ?_⟩
    rw [tick_fetches (hsm ▸ fetches), State.fetchAndExec_eq, ← State.word_congr hview, he, State.emptySlot,
      State.putView_setCurSm]

/-- Settles O49, by induction on the ticks: each writes one and the same view back into both states. -/
theorem ticksIgnoreOtherSms : Obligations.TicksIgnoreOtherSms := by
  intro k
  induction k with
  | zero =>
    intro s s' t _ _ _ same h
    obtain rfl : s = t := by injection h
    exact ⟨s', run_zero s', same, fun _ _ => ⟨rfl, rfl⟩⟩
  | succ k ih =>
    intro s s' t he he' hcur same h
    obtain ⟨t1, hstep, hrun⟩ := run_succ_next h
    rw [step_nil he] at hstep
    obtain ⟨v, rfl, htick'⟩ := tick_local (same.view_eq hcur) hstep
    obtain ⟨t', hrun', same', others⟩ :=
      ih (s.putView v) (s'.putView v) t he he' hcur (same.putView hcur v) hrun
    refine ⟨t', (run_succ ((step_nil he').trans htick')).trans hrun', same', fun n hn => ?_⟩
    obtain ⟨hother, hother'⟩ := others n hn
    exact ⟨hother.trans (s.sm_putView_ne v hn), hother'.trans (s'.sm_putView_ne v (hcur ▸ hn))⟩

/-! ### Delay and gate -/

/-- The state with a pending delay of `d` on the current SM. -/
def State.withDelay (s : State) (d : Nat) : State := s.setSm s.cur { s.sm s.cur with pendingDelay := d }

theorem State.withDelay_same (s : State) : s.withDelay (s.sm s.cur).pendingDelay = s := s.setSm_same s.cur

/-- R292 step 2, R294: one edge takes one from the delay. -/
theorem step_withDelay {s : State} {d : Nat} (he : s.events = []) (running : (s.sm s.cur).running = true) :
    step (s.withDelay (d + 1)) = .next (s.withDelay d) := by
  have hsm : (s.withDelay (d + 1)).sm s.cur = { s.sm s.cur with pendingDelay := d + 1 } := s.sm_setSm_self _ _
  have running' : ((s.withDelay (d + 1)).sm s.cur).running = true := by rw [hsm]; exact running
  have pending : 0 < ((s.withDelay (d + 1)).sm s.cur).pendingDelay := by rw [hsm]; exact Nat.succ_pos d
  calc step (s.withDelay (d + 1))
      = tick (s.withDelay (d + 1)) := step_nil he
    _ = .next ((s.withDelay (d + 1)).setSm s.cur { (s.withDelay (d + 1)).sm s.cur with
          pendingDelay := ((s.withDelay (d + 1)).sm s.cur).pendingDelay - 1 }) := tick_delay running' pending
    _ = .next (s.withDelay d) := by rw [hsm]; exact congrArg Host.Outcome.next (s.setSm_setSm _ _ _)

/-- R294: `k` edges take `k` from the delay. -/
theorem run_withDelay {s : State} (he : s.events = []) (running : (s.sm s.cur).running = true) {k d : Nat}
    (hk : k ≤ d) : Host.Core.run core k (s.withDelay d) = .next (s.withDelay (d - k)) := by
  induction k generalizing d with
  | zero => exact run_zero _
  | succ k ih =>
    obtain ⟨d, rfl⟩ : ∃ e, d = e + 1 := ⟨d - 1, by omega⟩
    rw [run_succ (step_withDelay he running), ih (by omega), Nat.add_sub_add_right]

/-- Settles O36, by the run from the state with its own delay. -/
theorem delayTakesItsTicks : Obligations.DelayTakesItsTicks := by
  intro d s he hen hclk hf hd k hk
  have hrun := run_withDelay he ((SM.running_iff _).2 ⟨hen, hclk, hf⟩) hk
  rw [← hd, State.withDelay_same, hd] at hrun
  exact hrun

/-- R292 step 1. -/
theorem SM.running_eq_false {m : SM} (h : m.enabled = false ∨ m.clockEnabled = false ∨ m.fault ≠ none) :
    m.running = false := by
  refine Bool.eq_false_iff.2 fun hr => ?_
  obtain ⟨hen, hclk, hf⟩ := (SM.running_iff m).1 hr
  rcases h with h | h | h
  · exact Bool.false_ne_true (h.symm.trans hen)
  · exact Bool.false_ne_true (h.symm.trans hclk)
  · exact h hf

/-- Settles O35: a gated tick answers its own state, and an edge puts the SM that was current back. -/
theorem gatedEdgeChangesNothing : Obligations.GatedEdgeChangesNothing := by
  intro s n rest
  refine ⟨fun he gated => ?current, fun he gated => ?listed⟩
  case current => rw [step_nil he, tick_gated (SM.running_eq_false gated)]
  case listed =>
    rw [step_cons he]
    exact edge_of_tick (s := { s with events := rest })
      (tick_gated (s := { s with events := rest, cur := n }) (SM.running_eq_false gated))

/-! ### Fetch -/

theorem State.word_of_slot {s : State} {w : InstrWord} (h : (s.sm s.cur).pendingInstruction = some w) :
    s.word = w := by
  rw [State.word, h]

/-- R293: with nothing listed, a step of an SM that fetches from the memory executes the instruction at its PC. -/
theorem step_fetches_code {s : State} {i : Instr} (he : s.events = []) (hf : (s.sm s.cur).Fetches)
    (hslot : (s.sm s.cur).pendingInstruction = none) (hcode : s.CodeAt (s.sm s.cur) i) : step s = exec i s := by
  rw [step_nil he, tick_fetches hf, State.fetchAndExec_eq, State.word_of_code hslot hcode,
    State.emptySlot_of_none hslot]

/-- R293: with nothing listed, a step of an SM that fetches from its slot executes that word, with the slot empty. -/
theorem step_fetches_slot {s : State} {w : InstrWord} (he : s.events = []) (hf : (s.sm s.cur).Fetches)
    (hslot : (s.sm s.cur).pendingInstruction = some w) : step s = exec (decodeWord w) s.emptySlot := by
  rw [step_nil he, tick_fetches hf, State.fetchAndExec_eq, State.word_of_slot hslot]

/-- Settles O34, by where the word comes from. -/
theorem stepRunsDecodedInstruction : Obligations.StepRunsDecodedInstruction := by
  intro s i n rest w
  refine ⟨fun he hf => ⟨step_fetches_code he hf, step_fetches_slot he hf⟩, fun he hf => ⟨?code, ?slot⟩⟩
  case code =>
    intro hslot hcode t ht
    exact State.EdgeFetches.step_eq ⟨he, hf, hslot, hcode⟩ ht
  case slot =>
    intro hslot t ht
    refine step_edge he hf ?_
    rw [State.word_of_slot (s := { s with events := rest, cur := n }) hslot]
    exact ht

/-! ### The injection slot -/

/-- R229, R264: from an empty slot, an instruction fills the slot exactly when it is an EXEC. -/
theorem exec_slot {i : Instr} {s t : State} (hslot : (s.sm s.cur).pendingInstruction = none)
    (h : exec i s = .next t) : (t.sm s.cur).pendingInstruction = none ↔ fillsSlot i.form = false := by
  rcases exec_next h with ⟨row, lsb, hi, rfl⟩ | ⟨v, r, hb, rfl⟩
  · rw [State.sm_putView_cur, hi]
    exact iff_of_true hslot rfl
  · rw [State.sm_putView_cur, View.finish_sm]
    exact bodyOf_slot hb hslot

/-- Settles O37: the word runs with the slot empty, whether the tick is that of the current SM or a listed edge. -/
theorem injectedWordIsConsumed : Obligations.InjectedWordIsConsumed := by
  intro s t n w hnext hf hslot h
  rcases hnext with ⟨he, rfl⟩ | ⟨rest, he⟩
  · rw [step_fetches_slot he hf hslot] at h
    exact exec_slot (s := s.emptySlot) (by rw [State.emptySlot_cur, State.emptySlot_sm_cur]) h
  · obtain ⟨u, hu, rfl⟩ := step_edge_next he hf h
    rw [State.word_of_slot (s := { s with events := rest, cur := n }) hslot] at hu
    exact exec_slot (s := { s with events := rest, cur := n }.emptySlot)
      (by rw [State.emptySlot_cur, State.emptySlot_sm_cur]) hu

/-! ### The PC -/

/-- R292 step 7, R296: a COMPLETE takes the successor; any other result leaves the PC. -/
theorem View.finish_pc (v : View) (df : BitVec 5) (r : ResultState) :
    (v.finish df r).sm.pc = if r = .complete then v.sm.successor else v.sm.pc := by
  rw [View.finish_sm]; rfl

/-- The successor is a matter of the PC and the wrap. -/
theorem SM.successor_congr {m m' : SM} (hpc : m'.pc = m.pc) (he : m'.execctrl = m.execctrl) :
    m'.successor = m.successor := by
  rw [SM.successor, SM.successor, hpc, he]

/-- Settles O38: a body that completes leaves the PC, and any other puts it where it stays. -/
theorem pcMovesByTheRules : Obligations.PcMovesByTheRules := by
  intro i s t h
  rcases exec_next h with ⟨row, lsb, -, rfl⟩ | ⟨v, r, hb, rfl⟩
  · rw [State.sm_putView_cur]
    exact .inl rfl
  · rw [State.sm_putView_cur, View.finish_pc]
    rcases (bodyOf_effect hb).pc with hpc | ⟨hr, jumped⟩
    · by_cases hr : r = .complete
      · rw [if_pos hr]
        exact .inr (.inl (SM.successor_congr hpc (bodyOf_frame hb).execctrl))
      · rw [if_neg hr]
        exact .inl hpc
    · rw [if_neg hr]
      exact .inr (.inr jumped)

/-! ### A stalled tick -/

/-- R158, R160, R203: a PUSH, a PULL or a WAIT IRQ of form `f` must wait. -/
def View.Waits (v : View) (f : Form) : Prop :=
  (∃ a, f = .push a true ∧ v.sm.pushWanted a = true ∧ v.sm.rxFifo.length = capRx v.params v.sm.shiftctrl) ∨
  (∃ a, f = .pull a true ∧ v.sm.pullWanted a = true ∧ v.sm.txFifo = []) ∨
  (∃ p index, f = .wait p (.irq index) ∧ v.shared.irq.getLsbD (flagNumber v.num index) ≠ p)

/-- The side-set drives nothing that the wait depends on. -/
theorem View.Waits.sideSet {v : View} {f : Form} (h : v.Waits f) (df : BitVec 5) : (v.sideSet df).Waits f := by
  simpa only [View.Waits, View.sideSet_sm, View.sideSet_params, View.sideSet_num, View.sideSet_irq] using h

/-- R292 steps 6 to 8: a body that stalls and changes nothing is followed by its side-set alone. -/
theorem retire_of_stall {df : BitVec 5} {body : Body} {s : State}
    (hb : body (s.view.setIrqWait none) = .ok (s.view.setIrqWait none, .stall)) :
    retire df body s = .next (s.putView ((s.view.setIrqWait none).sideSet df)) := by
  rw [retire, hb]; rfl

/-- R297: an instruction that must wait does nothing but its side-set. -/
theorem exec_of_waits {i : Instr} {s : State} (h : (s.view.setIrqWait none).Waits i.form) :
    exec i s = .next (s.putView ((s.view.setIrqWait none).sideSet i.df)) := by
  rw [exec_eq_meaning]
  rcases h with ⟨a, hi, asked, full⟩ | ⟨a, hi, asked, empty⟩ | ⟨p, index, hi, differs⟩
  · rw [hi]
    exact retire_of_stall (body := pushBody a true) (pushBody_full asked full)
  · rw [hi]
    exact retire_of_stall (body := pullBody a true) (pullBody_empty asked empty)
  · rw [hi]
    exact retire_of_stall (body := waitForIrq p index)
      (waitFor_differs ((irqGet_irqNum _ _ index).trans_ne differs))

/-- Writing a view of the current SM back and taking it again. -/
theorem State.view_putView {s : State} {v : View} (hnum : v.num = s.cur) (hparams : v.params = s.params) :
    (s.putView v).view = v := by
  rw [State.view, State.putView_cur, State.sm_putView_cur, State.putView_params, State.putView_shared, ← hnum,
    ← hparams]

theorem State.putView_putView (s : State) (v w : View) : (s.putView v).putView w = s.putView w := by
  change { (s.setSm s.cur v.sm).setSm s.cur w.sm with shared := w.shared } = s.putView w
  rw [State.setSm_setSm, State.putView]

theorem View.setIrqWait_same {v : View} {l : Option (BitVec 3)} (h : v.sm.irqWait = l) : v.setIrqWait l = v := by
  rw [← h]; rfl

/-- R297: the same word run twice, when it must wait the first time. -/
theorem exec_again_of_waits {i : Instr} {s t : State} (h : (s.view.setIrqWait none).Waits i.form)
    (ht : exec i s = .next t) : exec i t = .next t := by
  rw [exec_of_waits h] at ht
  injection ht with ht
  have hview : t.view.setIrqWait none = (s.view.setIrqWait none).sideSet i.df := by
    rw [← ht, State.view_putView (by rw [View.sideSet_num]; rfl) (by rw [View.sideSet_params]; rfl)]
    exact View.setIrqWait_same (by rw [View.sideSet_sm]; rfl)
  rw [exec_of_waits (hview ▸ h.sideSet i.df), hview, View.sideSet_idem, ← ht, State.putView_putView]

/-- Settles O50: the first tick leaves the SM at the same instruction, with the same reason to wait. -/
theorem stalledTickIsIdempotent : Obligations.StalledTickIsIdempotent := by
  intro s t i he hf hslot hcode waits h
  rw [step_fetches_code he hf hslot hcode] at h
  have waits' : (s.view.setIrqWait none).Waits i.form := waits
  have again := exec_again_of_waits waits' h
  rw [exec_of_waits waits'] at h
  injection h with h
  have hcur : t.cur = s.cur := by rw [← h]; rfl
  have hsm : t.sm t.cur = { s.sm s.cur with irqWait := none } := by
    rw [← h, State.putView_cur, State.sm_putView_cur, View.sideSet_sm]; rfl
  have himem : t.shared.imem = s.shared.imem := by
    rw [← h, State.putView_shared, View.sideSet_imem]; rfl
  rw [step_fetches_code (i := i), again]
  · rw [← h]; exact he
  · rw [hsm]; exact hf.with_irqWait none
  · rw [hsm]; exact hslot
  · rw [hsm, State.CodeAt, himem]; exact hcode

/-! ### The block tick -/

/-- R5, D24: a legal order names every SM. -/
theorem mem_smOrder_of_legal {p : Params} (h : p.Legal) (n : Fin 4) : n ∈ p.smOrder.toList := by
  obtain ⟨-, nodup⟩ := h
  have hall : p.smOrder.toList.toFinset = Finset.univ :=
    Finset.eq_univ_of_card _ (by rw [List.toFinset_card_of_nodup nodup]; simp)
  exact List.mem_toFinset.1 (hall ▸ Finset.mem_univ n)

/-- Settles O53: the edges are the order, filtered. -/
theorem blockTickInOrder : Obligations.BlockTickInOrder := by
  intro s edges rest he hp
  refine ⟨s.params.smOrder.toList.filter fun n => edges.getLsbD n.val, step_cons he, fun n => ?_,
    List.filter_sublist⟩
  rw [List.mem_filter, and_iff_right (mem_smOrder_of_legal hp n)]

/-! ### The granular setters -/

/-- R319: a value of the accepted range fits its field. -/
theorem SM.readNum_storeNum_same (m : SM) {f : NumField} {v : Nat} (h : v ≤ f.max) : (m.storeNum f v).readNum f = v := by
  cases f <;> exact Nat.mod_eq_of_lt (Nat.lt_of_le_of_lt h (by decide))

/-- R319: the numeric fields are disjoint. -/
theorem SM.readNum_storeNum_ne (m : SM) {f g : NumField} (h : g ≠ f) (v : Nat) :
    (m.storeNum f v).readNum g = m.readNum g := by
  have read : (m.storeNum f v).readNum g = if g = f then (m.storeNum f v).readNum f else m.readNum g := by
    cases f <;> cases g <;> rfl
  rw [read, if_neg h]

theorem SM.storeNum_choices (m : SM) (f : NumField) (v : Nat) : (m.storeNum f v).choices = m.choices := by
  cases f <;> rfl

/-- R80, D14: JOIN_RX is refused while JOIN_TX is set. -/
theorem SM.setJoinRx_refused {m : SM} (h : m.shiftctrl.joinTx = true) :
    m.setFlagField .joinRx true = (m, .failed (.invalidArgument .join 1)) := by
  simp [SM.setFlagField, h, refuseArgument]

theorem SM.setJoinTx_refused {m : SM} (h : m.shiftctrl.joinRx = true) :
    m.setFlagField .joinTx true = (m, .failed (.invalidArgument .join 1)) := by
  simp [SM.setFlagField, h, refuseArgument]

/-- R80: any other setting of JOIN_RX is stored. -/
theorem SM.setJoinRx_accepted {m : SM} {b : Bool} (h : ¬ (b = true ∧ m.shiftctrl.joinTx = true)) :
    m.setFlagField .joinRx b = (m.storeJoins b m.shiftctrl.joinTx, .done) := if_neg (by simpa using h)

theorem SM.setJoinTx_accepted {m : SM} {b : Bool} (h : ¬ (b = true ∧ m.shiftctrl.joinRx = true)) :
    m.setFlagField .joinTx b = (m.storeJoins m.shiftctrl.joinRx b, .done) := if_neg (by simpa using h)

/-- Settles O55, setter by setter. -/
theorem granularSettersCheckTheirRange : Obligations.GranularSettersCheckTheirRange := by
  intro m p f g v b side dir top ec sc
  have hmax : f.max = top := f.max_eq
  refine ⟨fun h => ?stored, fun h => ?refused, rfl, rfl, rfl, rfl, rfl, rfl, rfl, fun h => ?rxRefused,
    fun h => ?txRefused, fun h => ?rx, fun h => ?tx⟩
  case stored =>
    have hv : v ≤ f.max := hmax ▸ h
    simp only [SM.hostOp, SM.setNum_accepted hv]
    exact ⟨trivial, m.readNum_storeNum_same hv, fun hg => m.readNum_storeNum_ne hg v, m.storeNum_choices f v,
      m.storeNum_frame f v⟩
  case refused => exact SM.setNum_refused (hmax ▸ h)
  case rxRefused => exact ⟨_, _, SM.setJoinRx_refused h⟩
  case txRefused => exact ⟨_, _, SM.setJoinTx_refused h⟩
  case rx => exact (SM.setJoinRx_accepted h).trans (by rw [SM.storeJoins_rx])
  case tx => exact (SM.setJoinTx_accepted h).trans (by rw [SM.storeJoins_tx])

end Sys2Proof.Machine
end

section
/-! PROOFS. Failures (spec/60_exceptions.md): the internal invariant violations of `exec` and the decode error. -/

namespace Sys2Proof.Machine

/-! ### Internal invariant violations -/

/-- The count that the engine refuses, by form. -/
theorem not_bitCountInRange_iff (f : Form) : ¬ BitCountInRange f ↔
    (∃ src n, f = .input src n ∧ (n = 0 ∨ 32 < n)) ∨ (∃ dst n, f = .output dst n ∧ (n = 0 ∨ 32 < n)) := by
  cases f with
  | input src n => simp [BitCountInRange]; omega
  | output dst n => simp [BitCountInRange]; omega
  | jmp | wait | push | pull | mov | irqSet | irqWait | irqClear | set | reserved => simp [BitCountInRange]

theorem retire_of_error {df : BitVec 5} {body : Body} {s : State} {e : Fault}
    (hb : body (s.view.setIrqWait none) = .error e) : retire df body s = .fault e := by
  rw [retire, hb]; rfl

/-- R150, R344: an IN or an OUT with a count out of range stops. -/
theorem exec_badCount {i : Instr} (h : ¬ BitCountInRange i.form) (s : State) :
    ∃ n, exec i s = .fault (.internalInvariantViolation (.shiftAmount n)) ∧ (n = 0 ∨ 32 < n) := by
  rcases (not_bitCountInRange_iff _).1 h with ⟨src, n, hi, hn⟩ | ⟨dst, n, hi, hn⟩
  · refine ⟨n, (exec_in hi s).trans (retire_of_error ?_), hn⟩
    rw [shiftIn, View.shiftIntoIsr_error _ _ (by omega)]
  · refine ⟨n, (exec_out hi s).trans (retire_of_error ?_), hn⟩
    rw [shiftOut, View.shiftOutOfOsr_error _ (by omega)]

/-- R229, R264: the two EXECs. -/
theorem fillsSlot_iff (f : Form) :
    fillsSlot f = true ↔ (∃ n, f = .output .exec n) ∨ ∃ op src, f = .mov .exec op src := by
  cases f with
  | output dst n => cases dst <;> simp [fillsSlot]
  | mov dst op src => cases dst <;> simp [fillsSlot]
  | jmp | wait | input | push | pull | irqSet | irqWait | irqClear | set | reserved => simp [fillsSlot]

/-- R229, R264, R344: an EXEC stops on an occupied slot. -/
theorem exec_occupied {i : Instr} {s : State} (hcount : BitCountInRange i.form)
    (occupied : (s.sm s.cur).pendingInstruction ≠ none) (hfills : fillsSlot i.form = true) :
    exec i s = .fault (.internalInvariantViolation .secondPendingInstruction) := by
  rcases (fillsSlot_iff _).1 hfills with ⟨n, hi⟩ | ⟨op, src, hi⟩
  · rw [hi] at hcount
    refine (exec_out hi s).trans (retire_of_error ?_)
    simp only [shiftOut, View.shiftOutOfOsr_ok _ hcount, View.outDeliver]
    rw [View.inject_error _ occupied]
  · rw [exec_eq_meaning, hi]
    refine retire_of_error (body := move .exec op src) ?_
    rw [move, movWrite, View.inject_error _ occupied]

/-- R344: a body meets no violation when its count is in range and the slot it may fill is empty. -/
theorem bodyOf_answers_of_slot {f : Form} {v : View} (hcount : BitCountInRange f)
    (hslot : fillsSlot f = true → v.sm.pendingInstruction = none) : ∃ v' r, bodyOf f v = .ok (v', r) := by
  cases f with
  | input src n =>
    obtain ⟨hlo, hhi⟩ := hcount
    exact ⟨_, _, shiftIn_eq_pushBody src v hlo hhi⟩
  | output dst n =>
    obtain ⟨hlo, hhi⟩ := hcount
    obtain ⟨sh, -, delivered⟩ := View.outDeliver_spec
      (v.setOsr (shiftRest v.sm.shiftctrl.outShiftdir v.sm.osr n) (addCount v.sm.osrShiftCount n)) dst
      (shiftedOut v.sm.shiftctrl.outShiftdir v.sm.osr n) n fun h => hslot (by rw [h]; rfl)
    exact ⟨_, _, shiftOut_of_delivered hlo hhi delivered⟩
  | mov dst op src =>
    cases dst
    case exec => exact ⟨_, _, movWrite_exec _ _ (hslot rfl)⟩
    all_goals exact ⟨_, _, rfl⟩
  | jmp cond address => cases cond <;> exact ⟨_, _, rfl⟩
  | wait polarity src => cases src <;> exact ⟨_, _, rfl⟩
  | set dst data => cases dst <;> exact ⟨_, _, rfl⟩
  | push | pull | irqSet | irqWait | irqClear | reserved => exact ⟨_, _, rfl⟩

/-- R344: an instruction meets no violation when its count is in range and the slot it may fill is empty. -/
theorem exec_answers_of_slot {i : Instr} {s : State} (hcount : BitCountInRange i.form)
    (hslot : fillsSlot i.form = true → (s.sm s.cur).pendingInstruction = none) : ∃ t, exec i s = .next t := by
  rw [exec_eq_meaning]
  generalize i.form = f at hcount hslot ⊢
  cases f
  case reserved row lsb => exact ⟨_, rfl⟩
  case irqWait index => exact ⟨_, rfl⟩
  all_goals
    obtain ⟨v, r, hb⟩ := bodyOf_answers_of_slot (v := s.view.setIrqWait none) hcount hslot
    exact ⟨s.putView (v.finish i.df r), by rw [meaningOf, retire, hb, settle_ok]⟩

/-- Settles O33: the two violations exclude an answer, and nothing else does. -/
theorem execStopsOnlyOnInternalViolation : Obligations.ExecStopsOnlyOnInternalViolation := by
  intro i s occupied badCount
  have hbad : ¬ BitCountInRange i.form ↔ badCount := not_bitCountInRange_iff i.form
  have bad_stops := fun h : badCount => exec_badCount (hbad.2 h) s
  have second_stops : ¬ badCount → occupied → fillsSlot i.form = true →
      exec i s = .fault (.internalInvariantViolation .secondPendingInstruction) := fun hgood hocc =>
    exec_occupied (not_not.1 (mt hbad.1 hgood)) (Option.isSome_iff_ne_none.1 hocc)
  refine ⟨⟨fun ⟨t, ht⟩ => ?stops, fun ⟨hgood, hfree⟩ => ?answers⟩, bad_stops, second_stops⟩
  case stops =>
    have hgood : ¬ badCount := fun h => by
      obtain ⟨n, hfault, -⟩ := bad_stops h
      cases hfault.symm.trans ht
    exact ⟨hgood, fun ⟨hocc, hfills⟩ => nomatch (second_stops hgood hocc hfills).symm.trans ht⟩
  case answers =>
    refine exec_answers_of_slot (not_not.1 (mt hbad.1 hgood)) fun hfills => ?_
    by_contra hne
    exact hfree ⟨Option.isSome_iff_ne_none.2 hne, hfills⟩

/-! ### The decode error -/

/-- Settles O32: the word that a decode error records is the encoding of the row. -/
theorem reservedRecordsDecodeError : Obligations.ReservedRecordsDecodeError := by
  intro i row lsb s hi
  have hword : encode i = reservedOpcode row ++ i.df ++ lsb := by rw [encode, hi]; rfl
  rw [hword, exec_eq_meaning, hi]
  rfl

end Sys2Proof.Machine
end
